-- ==== Sys2Proof/Word.lean ====
section
/-! DEFINITION. The value types of the hardware (00_scope.md R9, R10): bytes, 16-bit and 32-bit unsigned
values, and byte sequences.  Nothing in this hardware is signed (R9). -/

namespace Sys2Proof

/-- An 8-bit unsigned integer (R9). -/
abbrev Byte := BitVec 8

/-- The spec's `u16`: a header field, a port, a checksum value (R7, R9). -/
abbrev Half := BitVec 16

/-- The spec's `u32`: the width of every shell register and of a command word (R8, R9, R90). -/
abbrev Word := BitVec 32

/-- A finite ordered list of bytes (R10). -/
abbrev Bytes := List Byte

end Sys2Proof
end

