-- ==== Sys2Proof/Syntax.lean ====
section
/-! DEFINITION. The command set: one constructor per row of spec/opcode_table.json (30_encoding.md R91).
No command has an operand field (R95); the operands come from the shell's registers and IN. -/

namespace Sys2Proof

/-- The three commands of R91.  An illegal command word (R93) is no row of the table: the decoder
refuses it and the machine performs R93's failure commit. -/
inductive Instr where
  /-- CSUM: the checksum of the input buffer (R150). -/
  | csum
  /-- BUILD: encode a datagram into OUT (R175). -/
  | build
  /-- PARSE: decode the input buffer (R205). -/
  | parse
deriving DecidableEq, Repr

end Sys2Proof
end

