-- ==== Sys2Proof/Config.lean ====
section
/-! DEFINITION. What an implementation fixes (00_scope.md R8) and the values the spec leaves free
(20_memory.md R68, R69).  The free values are constants with no body: no proof can see what they are. -/

namespace Sys2Proof

/-- The parameters of the register shell (R8).  They are data carried by the state and never changed by
a step, so that a statement about every state is a statement about every choice of them. -/
structure Config where
  /-- `IN_CAP`, the input buffer's capacity in bytes. -/
  inCap : Nat
  /-- `OUT_CAP`, the output buffer's capacity in bytes. -/
  outCap : Nat
  /-- `BASE`, the bus address of the block's offset 0; OPEN in the spec, a platform parameter. -/
  base : Nat
deriving DecidableEq, Repr

/-- `MAX_PAYLOAD` = 65535 − 8: fixed by the 16-bit length field, no parameter (R8, R172). -/
def Config.maxPayload : Nat := 65527

/-- How many bus addresses the block occupies from `BASE` (R62). -/
def Config.blockSize : Nat := 0x40000

/-- The values R8 takes for the capacities.  DESIGN CHOICE (log 5, unsafe): `base` 0, where the spec
leaves `BASE` open. -/
def Config.standard : Config := { inCap := 65536, outCap := 65536, base := 0 }

/-- The unspecified byte of R68 and R69: the byte the `n`-th read of an undefined buffer byte gives.
Free value (log 3): no body, so nothing is known of it. -/
opaque Config.freeByte : Nat → Byte

/-- The 32-bit argument that reports a length of 2^32 or more (log 10): the spec gives such an argument
no value (R9: a value assigned to a field must already fit).  No command can reach it. -/
opaque Config.oversizeArg : Nat → Word

end Sys2Proof
end

