-- ==== Sys2Proof/Machine/Bus.lean ====
section
/-! DEFINITION. What passes between the block and the outside: the registers by name (10_state.md
section 3), the host's accesses and their answers (20_memory.md R64, R65), the events that drive the
block (R282), and the notification records (10_state.md R41, 60_exceptions.md R240, R241). -/

namespace Sys2Proof.Machine

/-- The twelve registers of 10_state.md R27 to R38, by name. -/
inductive Reg where
  | cmd | status | srcPort | dstPort | inLen | resSrc | resDst | resLen | resCsum | outLen
  | errArg0 | errArg1
deriving DecidableEq, Repr

/-- One bus access by a host, at a bus address.  R64 names the first four kinds. -/
inductive Access where
  /-- `r32`: 32-bit read. -/
  | r32 (addr : Nat)
  /-- `w32`: 32-bit write. -/
  | w32 (addr : Nat) (v : Word)
  /-- `r8`: 8-bit read. -/
  | r8 (addr : Nat)
  /-- `w8`: 8-bit write. -/
  | w8 (addr : Nat) (v : Byte)
  /-- An access of any other width (`bits` is neither 8 nor 32): always a bus error (R65 (c), (d); D2). -/
  | other (bits : Nat) (write : Bool) (addr : Nat)
deriving DecidableEq, Repr

/-- The bus address an access is made to. -/
def Access.addr : Access → Nat
  | .r32 a => a
  | .w32 a _ => a
  | .r8 a => a
  | .w8 a _ => a
  | .other _ _ a => a

/-- The block's answer to one access. -/
inductive Response where
  /-- The value a 32-bit read returns. -/
  | data32 (v : Word)
  /-- The byte an 8-bit read returns. -/
  | data8 (b : Byte)
  /-- A write completed, with all its effects (R64). -/
  | written
  /-- Answered with a bus error: no data and no effect (R65). -/
  | busError
deriving DecidableEq, Repr

/-- One event of the outside world, in the order the block meets them (R75, R282). -/
inductive Event where
  /-- A host makes an access. -/
  | access (a : Access)
  /-- The first half of `copyback` (R101): host `host` makes an `r8` at `addr` and keeps the byte read. -/
  | copyRead (host addr : Nat)
  /-- The second half (R101): host `host` makes a `w8` at `addr` of the byte it keeps, whatever other accesses
  stand between the two halves (R75). -/
  | writeBack (host addr : Nat)
  /-- The platform asserts reset, between two accesses (R280, R282). -/
  | reset
deriving DecidableEq, Repr

/-- The levels the block uses.  It never emits an INFO notification (R242, 90_conflicts.md C4). -/
inductive Level where
  | warn | error
deriving DecidableEq, Repr

/-- The error codes of R240 and the warning codes of R241, by name. -/
inductive Code where
  | invalidDstPort | emptyPayload | lengthMismatch | truncatedHeader | payloadTooLong
  | badInputLength | illegalCommand | srcPortZero | checksumZero
deriving DecidableEq, Repr

/-- One record of the notification stream (R41).  The code's 4-bit value is `Code.num`. -/
structure Notification where
  level : Level
  code : Code
  arg0 : Word
  arg1 : Word
deriving DecidableEq, Repr

end Sys2Proof.Machine
end

