-- ==== Sys2Proof/WellFormed.lean ====
section
/-! DEFINITION. Well-formedness of what the model takes in: commands, the shell's parameters
(00_scope.md R8) and host accesses (20_memory.md R62, R64). -/

namespace Sys2Proof

/-- A command has no operand (30_encoding.md R95), so every one is well-formed. -/
def Instr.wf : Instr → Bool
  | .csum => true
  | .build => true
  | .parse => true

/-- The constraints of R8's table on `IN_CAP`, `OUT_CAP` and `BASE`. -/
abbrev Config.Valid (c : Config) : Prop :=
  8 ≤ c.inCap ∧ c.inCap ≤ 65536 ∧
  min c.inCap Config.maxPayload + 8 ≤ c.outCap ∧ c.outCap ≤ 65536 ∧
  c.base % Config.blockSize = 0

/-- An access of another width is none of the four kinds of R64. -/
def Machine.Access.wf : Machine.Access → Bool
  | .r32 _ => true
  | .w32 _ _ => true
  | .r8 _ => true
  | .w8 _ _ => true
  | .other bits _ _ => bits != 8 && bits != 32

/-- R62: the bus address `a` is one of the block's. -/
abbrev Config.Addresses (c : Config) (a : Nat) : Prop :=
  c.base ≤ a ∧ a < c.base + Config.blockSize

end Sys2Proof
end

