-- ==== Sys2Proof/Decode.lean ====
section
/-! DEFINITION. The command word's decoder and encoder (30_encoding.md R90, R91, R97).  A command word is
written to CMD whole; registers have no byte lanes (20_memory.md R70), so the decoder takes the word. -/

namespace Sys2Proof

/-- Why a word is no command (R93): both end in the failure commit with ILLEGAL_COMMAND. -/
inductive DecodeError where
  /-- `v[31:4]` is not zero. -/
  | reservedBitsNotZero
  /-- `v[31:4]` is zero and OP is 0x0 or 0x4 to 0xF. -/
  | noSuchOpcode
deriving DecidableEq, Repr

/-- `v[3:0]`, the field OP (R90). -/
def opField (v : Word) : BitVec 4 := v.extractLsb' 0 4

/-- `v[31:4]`, the field MBZ (R90). -/
def mbzField (v : Word) : BitVec 28 := v.extractLsb' 4 28

/-- R91, R93, R97: every 32-bit value is exactly one command, or illegal by name. -/
def decode (v : Word) : Except DecodeError Instr :=
  if mbzField v ≠ 0 then .error .reservedBitsNotZero
  else if opField v = 1 then .ok .csum
  else if opField v = 2 then .ok .build
  else if opField v = 3 then .ok .parse
  else .error .noSuchOpcode

/-- The opcode map of R91. -/
def Instr.opcode : Instr → BitVec 4
  | .csum => 0x1
  | .build => 0x2
  | .parse => 0x3

/-- The command word: OP below, zero above (R90). -/
def encode (i : Instr) : Word := i.opcode.setWidth 32

/-- The instruction the decoder reads from a row of `nbits` bits whose bits are `w`.  A command is one
32-bit word and nothing longer (R90), so a row with a bit above bit 31 is no command. -/
def decodeTableWord (nbits w : Nat) : Option Instr :=
  let v := w % 2 ^ nbits
  if v < 2 ^ 32 then
    match decode (BitVec.ofNat 32 v) with
    | .ok i => some i
    | .error _ => none
  else none

end Sys2Proof
end

