-- ==== Sys2Proof/Machine/State.lean ====
section
/-! DEFINITION. The machine's state: everything 10_state.md gives the shell, and the model's own fields
(the parameters, the free-value counter, the events still to come and the answers given). -/

namespace Sys2Proof.Machine

/-- A byte memory: the bytes that hold a value, by strictly rising index.  An index that is not listed has
no value (R68: a never-written byte has no defined value), so no entry can equal what an unlisted index
reads as, and the written-mark of a byte IS its being listed. -/
abbrev Memory := List Host.Cell

/-- The canonical form: strictly rising indexes, so that equal memories are equal lists. -/
abbrev Memory.wf (m : Memory) : Prop := m.Pairwise (fun a b => a.1 < b.1)

/-- Every listed index is below a capacity. -/
abbrev Memory.within (m : Memory) (cap : Nat) : Prop := ∀ c ∈ m, c.1 < cap

/-- The reasons the machine can stop with a fault: none.  An error is a result and not a trap (R249), a bus
error is an answer and not a trap (R65), and an undefined byte is a fresh draw (R68, R69; log 3). -/
inductive Fault where
deriving DecidableEq, Repr

/-- The reasons the model gives no meaning. -/
inductive Refusal where
  /-- Raised by exec's arm of a command with no meaning yet.  Safe.  No arm raises it. -/
  | notModelled (mnemonic : String)
  /-- Raised by the step for an access to an address that is not the block's: what it reaches is the
  platform's (R62), outside the model (93_implementation_defined.md section 2).  Safe (log 6). -/
  | notTheBlock
deriving DecidableEq, Repr

/-- The state of the block.  CMD holds no value (R27), so it has no field. -/
structure State where
  /-- R8: the parameters; the model's own field, never changed by a step (log 5). -/
  cfg : Config
  /-- STATUS, R28. -/
  status : Word
  /-- SRC_PORT, R30. -/
  srcPort : Word
  /-- DST_PORT, R31. -/
  dstPort : Word
  /-- IN_LEN, R32. -/
  inLen : Word
  /-- RES_SRC, R33. -/
  resSrc : Word
  /-- RES_DST, R34. -/
  resDst : Word
  /-- RES_LEN, R35. -/
  resLen : Word
  /-- RES_CSUM, R36. -/
  resCsum : Word
  /-- OUT_LEN, R37. -/
  outLen : Word
  /-- ERR_ARG0, R38. -/
  errArg0 : Word
  /-- ERR_ARG1, R38. -/
  errArg1 : Word
  /-- IN and its written-marks, R39. -/
  inBuf : Memory
  /-- OUT, R40. -/
  outBuf : Memory
  /-- The notification stream, oldest first, R41. -/
  notes : List Notification
  /-- The model's own counter of undefined bytes drawn so far (log 3, 4). -/
  draws : Nat
  /-- The model's own list of events still to come, next first (log 1). -/
  pending : List Event
  /-- The model's own record of the answers given to the hosts, oldest first (log 2). -/
  responses : List Response
  /-- The model's own record of the byte each host keeps from the read of a `copyback` (R101), by the host's
  number: no state of the block (log 13). -/
  held : Memory
deriving DecidableEq, Repr

/-- R280: every register 0, no written-mark set, nothing emitted.  DESIGN CHOICE of the model's own fields:
`cfg` (log 5), `draws` (log 4), `pending` (log 1), `responses` (log 2) and `held` (log 13). -/
def State.reset : State where
  cfg := Config.standard
  status := 0
  srcPort := 0
  dstPort := 0
  inLen := 0
  resSrc := 0
  resDst := 0
  resLen := 0
  resCsum := 0
  outLen := 0
  errArg0 := 0
  errArg1 := 0
  inBuf := []
  outBuf := []
  notes := []
  draws := 0
  pending := []
  responses := []
  held := []

end Sys2Proof.Machine
end

