-- ==== Sys2Proof/Machine/Flags.lean ====
section
/-! DEFINITION. STATUS, the shell's only flags (10_state.md R28, R29): its fields, what a command's start puts
in it (30_encoding.md R92), and how an error (60_exceptions.md R246) and a warning (R247) set it. -/

namespace Sys2Proof.Machine

/-- The 4-bit code of an error (R240) or a warning (R241). -/
def Code.num : Code → BitVec 4
  | .invalidDstPort => 1
  | .emptyPayload => 2
  | .lengthMismatch => 3
  | .truncatedHeader => 4
  | .payloadTooLong => 5
  | .badInputLength => 6
  | .illegalCommand => 7
  | .srcPortZero => 8
  | .checksumZero => 9

/-- `STATUS[3:0]`. -/
def Status.err (st : Word) : BitVec 4 := st.extractLsb' 0 4

/-- `STATUS[4]`. -/
def Status.wsrc (st : Word) : Bool := st.getLsbD 4

/-- `STATUS[5]`. -/
def Status.wcsum (st : Word) : Bool := st.getLsbD 5

/-- `STATUS[11:8]`. -/
def Status.lastOp (st : Word) : BitVec 4 := st.extractLsb' 8 4

/-- The bits of STATUS that are no reserved bits (R28). -/
def Status.mask : Word := 0x00000F3F

/-- R92: `zext_32(op) << 8`, that is ERR, WSRC and WCSUM 0 and LASTOP = op. -/
def Status.start (op : BitVec 4) : Word := op.setWidth 32 <<< 8

/-- R246: `x[STATUS].ERR <- code`, every other bit as it was. -/
def Status.setErr (st : Word) (code : BitVec 4) : Word := (st &&& ~~~(0xF : Word)) ||| code.setWidth 32

/-- `x[STATUS].WSRC <- 1`. -/
def Status.setWsrc (st : Word) : Word := st ||| 0x10

/-- `x[STATUS].WCSUM <- 1`. -/
def Status.setWcsum (st : Word) : Word := st ||| 0x20

/-- R247: what one notification does to STATUS. -/
def Status.afterNote (st : Word) (n : Notification) : Word :=
  match n.level, n.code with
  | .warn, .srcPortZero => Status.setWsrc st
  | .warn, .checksumZero => Status.setWcsum st
  | _, _ => st

end Sys2Proof.Machine
end

