-- ==== Sys2Proof/Machine/Ops.lean ====
section
/-! DEFINITION. The named operations over memory, registers and the notification stream, and the shell's
failure commit (60_exceptions.md R246), which is what this hardware has in place of taking an exception:
no state is saved, no mode changes and no vector is taken (R249), and there is no return from one (R250). -/

namespace Sys2Proof.Machine

/-! ## Memory -/

/-- The byte at index `k`, or none where nothing was written since reset (R67, R68). -/
def Memory.read (k : Nat) : Memory → Option Byte
  | [] => none
  | (j, b) :: rest => if j = k then some b else Memory.read k rest

/-- `MemWrite(k, 1, b)`: stores the byte and lists it, which sets its written-mark (R66). -/
def Memory.write (k : Nat) (b : Byte) : Memory → Memory
  | [] => [(k, b)]
  | (j, c) :: rest =>
    if k < j then (k, b) :: (j, c) :: rest
    else if k = j then (k, b) :: rest
    else (j, c) :: Memory.write k b rest

/-- The memory with nothing at index `k`. -/
def Memory.erase (k : Nat) (m : Memory) : Memory := m.filter (fun c => c.1 != k)

/-- Byte writes at consecutive indexes from `k`, lowest first. -/
def Memory.writeFrom (k : Nat) : Bytes → Memory → Memory
  | [], m => m
  | b :: bs, m => Memory.writeFrom (k + 1) bs (Memory.write k b m)

/-- The written-mark of byte `k` (R39). -/
def Memory.written (k : Nat) (m : Memory) : Bool := (Memory.read k m).isSome

/-- One read of the byte at index `k` with `d` undefined bytes drawn so far: its value, or a fresh draw where it has
none (R68, R69; log 3); and the count of draws after it. -/
def Memory.readOrDraw (m : Memory) (k d : Nat) : Byte × Nat :=
  match Memory.read k m with
  | some b => (b, d)
  | none => (Config.freeByte d, d + 1)

/-- The `n` bytes from index `k`, read in index order (R74's snapshot), and the count of draws after them. -/
def Memory.takeBytes (m : Memory) : (n k d : Nat) → Bytes × Nat
  | 0, _, d => ([], d)
  | n + 1, k, d =>
    let first := Memory.readOrDraw m k d
    let rest := Memory.takeBytes m n (k + 1) first.2
    (first.1 :: rest.1, rest.2)

/-! ## Updates of the state, each a named one -/

def State.setStatus (v : Word) (s : State) : State := { s with status := v }

def State.setErrArgs (a0 a1 : Word) (s : State) : State := { s with errArg0 := a0, errArg1 := a1 }

/-- The four result registers, which every command writes together (D14). -/
def State.setResults (src dst len csum : Word) (s : State) : State :=
  { s with resSrc := src, resDst := dst, resLen := len, resCsum := csum }

def State.setOutLen (v : Word) (s : State) : State := { s with outLen := v }

def State.setSrcPort (v : Word) (s : State) : State := { s with srcPort := v }

def State.setDstPort (v : Word) (s : State) : State := { s with dstPort := v }

def State.setInLen (v : Word) (s : State) : State := { s with inLen := v }

def State.setInBuf (m : Memory) (s : State) : State := { s with inBuf := m }

def State.setOutBuf (m : Memory) (s : State) : State := { s with outBuf := m }

def State.setNotes (ns : List Notification) (s : State) : State := { s with notes := ns }

def State.setDraws (d : Nat) (s : State) : State := { s with draws := d }

def State.setHeld (m : Memory) (s : State) : State := { s with held := m }

def State.setPending (es : List Event) (s : State) : State := { s with pending := es }

/-- The block's answer to an access, put at the end of the record (log 2). -/
def State.respond (r : Response) (s : State) : State := { s with responses := s.responses ++ [r] }

/-! ## Notifications -/

/-- R243: append one record to the stream; R247: and set the warning bit it stands for. -/
def notify (s : State) (n : Notification) : State :=
  (s.setNotes (s.notes ++ [n])).setStatus (Status.afterNote s.status n)

/-- The notifications of one operation, in the order it emits them (R243). -/
def notifyAll (ns : List Notification) (s : State) : State := ns.foldl notify s

/-! ## The start and the failure of a command -/

/-- R92's prologue: clear ERR, WSRC, WCSUM and the error arguments, and record OP. -/
def beginCommand (v : Word) (s : State) : State :=
  (s.setStatus (Status.start (opField v))).setErrArgs 0 0

/-- R246, the failure commit: the error's code and arguments, every result 0, OUT not written. -/
def failCommit (code : Code) (a0 a1 : Word) (s : State) : State :=
  (((s.setStatus (Status.setErr s.status code.num)).setErrArgs a0 a1).setResults 0 0 0 0).setOutLen 0

/-- A successful BUILD's or PARSE's write of `OUT[0 : len(b)]` and OUT_LEN (R175, R205). -/
def writeOut (b : Bytes) (s : State) : State :=
  (s.setOutBuf (Memory.writeFrom 0 b s.outBuf)).setOutLen (BitVec.ofNat 32 b.length)

/-! ## Registers -/

/-- The register's offset in the register window (10_state.md section 3). -/
def Reg.offset : Reg → Nat
  | .cmd => 0x000
  | .status => 0x004
  | .srcPort => 0x008
  | .dstPort => 0x00C
  | .inLen => 0x010
  | .resSrc => 0x014
  | .resDst => 0x018
  | .resLen => 0x01C
  | .resCsum => 0x020
  | .outLen => 0x024
  | .errArg0 => 0x028
  | .errArg1 => 0x02C

/-- Every register, in the order of its offset. -/
def Reg.all : List Reg :=
  [.cmd, .status, .srcPort, .dstPort, .inLen, .resSrc, .resDst, .resLen, .resCsum, .outLen,
   .errArg0, .errArg1]

/-- The register at an offset of the register window, if one is mapped there. -/
def Reg.atOffset (o : Nat) : Option Reg := Reg.all.find? (fun r => r.offset == o)

/-- The defined bits of each register; the others are reserved and read 0 (R27 to R38). -/
def Reg.mask : Reg → Word
  | .cmd => 0
  | .status => Status.mask
  | .srcPort => 0xFFFF
  | .dstPort => 0xFFFF
  | .inLen => 0xFFFFFFFF
  | .resSrc => 0xFFFF
  | .resDst => 0xFFFF
  | .resLen => 0xFFFF
  | .resCsum => 0xFFFF
  | .outLen => 0xFFFFFFFF
  | .errArg0 => 0xFFFFFFFF
  | .errArg1 => 0xFFFFFFFF

/-- What a register's field of the state holds; CMD holds nothing (R27). -/
def Reg.field (s : State) : Reg → Word
  | .cmd => 0
  | .status => s.status
  | .srcPort => s.srcPort
  | .dstPort => s.dstPort
  | .inLen => s.inLen
  | .resSrc => s.resSrc
  | .resDst => s.resDst
  | .resLen => s.resLen
  | .resCsum => s.resCsum
  | .outLen => s.outLen
  | .errArg0 => s.errArg0
  | .errArg1 => s.errArg1

/-- The value a host's `r32` returns: the register's value with reserved bits 0, and 0 for CMD (R64). -/
def readReg (r : Reg) (s : State) : Word := r.field s &&& r.mask

/-! ## Reset -/

/-- R280: the reset event.  The parameters, the events still to come, the answers already given, the bytes the
hosts keep and the count of draws are the model's own fields and stay (log 7). -/
def resetBlock (s : State) : State :=
  { State.reset with
    cfg := s.cfg, draws := s.draws, pending := s.pending, responses := s.responses,
    held := s.held }

end Sys2Proof.Machine
end

