-- ==== Sys2Proof/Machine/Operands.lean ====
section
/-! DEFINITION. The operands of a command (30_encoding.md R95): the low 16 bits of the port registers and the
snapshot of IN (20_memory.md R74). -/

namespace Sys2Proof.Machine

/-- `x[SRC_PORT][15:0]` (R92). -/
def srcOperand (s : State) : Half := s.srcPort.extractLsb' 0 16

/-- `x[DST_PORT][15:0]` (R92). -/
def dstOperand (s : State) : Half := s.dstPort.extractLsb' 0 16

/-- R92's and R94's test: IN_LEN is not above `IN_CAP`. -/
abbrev lengthFits (s : State) : Prop := s.inLen.toNat ≤ s.cfg.inCap

/-- `d = IN[0 : x[IN_LEN]]`, each never-written byte a fresh draw (R68, R74), and the draws after it. -/
def inputTaken (s : State) : Bytes × Nat := s.inBuf.takeBytes s.inLen.toNat 0 s.draws

/-- The snapshot alone. -/
def inputOf (s : State) : Bytes := (inputTaken s).1

/-- The state once the snapshot is taken: only the count of draws has moved. -/
def afterInput (s : State) : State := s.setDraws (inputTaken s).2

end Sys2Proof.Machine
end

