-- ==== Sys2Proof/Machine/ByteCodec.lean ====
section
/-! DEFINITION. The ByteCodec primitives (40_bytecodec.md R120 to R123), functions of the core that no command
exposes (R125). -/

namespace Sys2Proof.Machine

/-- `[value[15:8], value[7:0]]` (R120). -/
def packUint16 (value : Half) : Bytes := [value.extractLsb' 8 8, value.extractLsb' 0 8]

/-- The big-endian 16-bit word of two bytes, the first the high one (R61). -/
def word16 (hi lo : Byte) : Half := (hi.setWidth 16 <<< 8) ||| lo.setWidth 16

/-- R121: the value of exactly two bytes.  Any other length is the spec's undefined input, for which the
function gives no result (93_implementation_defined.md section 1: refuse; log 15). -/
def unpackUint16 : Bytes → Option Half
  | [hi, lo] => some (word16 hi lo)
  | _ => none

/-- Order-preserving concatenation of any number of sequences (R122). -/
def concat (ss : List Bytes) : Bytes := ss.foldl (· ++ ·) []

/-- R123: true iff the lengths match and all bytes match positionally. -/
def bytesEqual : Bytes → Bytes → Bool
  | [], [] => true
  | x :: xs, y :: ys => if x ≠ y then false else bytesEqual xs ys
  | _, _ => false

end Sys2Proof.Machine
end

