-- ==== Sys2Proof/Machine/Checksum.lean ====
section
/-! DEFINITION. The ChecksumEngine (41_checksum.md R140 to R148): a pure function of a byte sequence of any
length, which emits no notification (R242). -/

namespace Sys2Proof.Machine

/-- R140, carry-around addition: add in 32 bits, fold the bits above bit 15 back in once, truncate. -/
def csumAdd (s w : Half) : Half :=
  let t : Word := s.setWidth 32 + w.setWidth 32
  let folded : Word := if t > 0xFFFF then (t.extractLsb' 0 16).setWidth 32 + (t >>> 16) else t
  folded.extractLsb' 0 16

/-- R145, R146: add the big-endian words of the pairs in index order, then an odd trailing byte as the high
byte of a word. -/
def sumWords (s : Half) : Bytes → Half
  | [] => s
  | [b] => csumAdd s (b.setWidth 16 <<< 8)
  | hi :: lo :: rest => sumWords (csumAdd s (word16 hi lo)) rest

/-- R142: the empty input (R143), the single byte widened into the LOW byte (R144, 90_conflicts.md C1), and
the walk from 0 (R148) complemented (R147). -/
def checksum : Bytes → Half
  | [] => 0xFFFF
  | [b] => ~~~(b.setWidth 16)
  | d => ~~~(sumWords 0 d)

end Sys2Proof.Machine
end

