-- ==== Sys2Proof/Machine/Datagram.lean ====
section
/-! DEFINITION. The DatagramCodec: `buildDatagram` (42_encode.md R170), `parseDatagram` (43_decode.md R200) and
`datagramEquals` (44_equality.md R230), pure functions that return their result and the notifications
they emit (10_state.md R22). -/

namespace Sys2Proof.Machine

/-- R20. -/
structure Datagram where
  sourcePort : Half
  destinationPort : Half
  length : Half
  checksum : Half
  data : Bytes
deriving DecidableEq, Repr

/-- `Ok(v)` or `Error(code, arg0, arg1)` (R11). -/
inductive CoreResult (α : Type) where
  | ok (v : α)
  | error (code : Code) (arg0 arg1 : Word)
deriving DecidableEq, Repr

/-- What one core operation produces: its notifications, oldest first, and its result (R22). -/
structure Emission (α : Type) where
  notes : List Notification
  result : CoreResult α
deriving DecidableEq, Repr

/-- `notify(ERROR, code, arg0, arg1)` and then `return Error(code, arg0, arg1)`, after the notifications
already emitted: an error's notification comes immediately before its return (R244). -/
def fatal {α : Type} (before : List Notification) (code : Code) (arg0 arg1 : Word) : Emission α :=
  { notes := before ++ [{ level := .error, code := code, arg0 := arg0, arg1 := arg1 }],
    result := .error code arg0 arg1 }

/-- A warning record: both arguments are 0 (R241). -/
def warning (code : Code) : Notification := { level := .warn, code := code, arg0 := 0, arg1 := 0 }

/-- A length as a 32-bit argument (R240); from 2^32 on the spec states no value (R9; log 10). -/
def lengthArg (n : Nat) : Word := if n < 2 ^ 32 then BitVec.ofNat 32 n else Config.oversizeArg n

/-- The length field of a built datagram, `8 + len(data)` (R173). -/
def lengthField (data : Bytes) : Half := BitVec.ofNat 16 (8 + data.length)

/-- R174: the byte form of a datagram (20_memory.md R60). -/
def wireForm (src dst length csum : Half) (data : Bytes) : Bytes :=
  concat [packUint16 src, packUint16 dst, packUint16 length, packUint16 csum, data]

/-- R170: the fatal checks in order, then the source-port warning, then the byte form. -/
def buildDatagram (src dst : Half) (data : Bytes) : Emission Bytes :=
  if dst = 0 then fatal [] .invalidDstPort 0 0
  else if data.length = 0 then fatal [] .emptyPayload 0 0
  else if data.length > Config.maxPayload then
    fatal [] .payloadTooLong (lengthArg data.length) (BitVec.ofNat 32 Config.maxPayload)
  else
    { notes := if src = 0 then [warning .srcPortZero] else [],
      result := .ok (wireForm src dst (lengthField data) (checksum data) data) }

/-- R203, checks 1 to 4, on the fields of a datagram of `n` bytes.  The checksum field is never compared
with the payload's checksum (R204). -/
def checkFields (n : Nat) (g : Datagram) : Emission Datagram :=
  if n ≠ g.length.toNat then fatal [] .lengthMismatch (g.length.setWidth 32) (lengthArg n)
  else
    let warnings :=
      (if g.checksum = 0 then [warning .checksumZero] else []) ++
      (if g.sourcePort = 0 then [warning .srcPortZero] else [])
    if g.destinationPort = 0 then fatal warnings .invalidDstPort 0 0
    else { notes := warnings, result := .ok g }

/-- R200: eight header bytes, big-endian (R202), and the rest the payload; a sequence without eight bytes is
TRUNCATED_HEADER before any header byte is read (R201). -/
def parseDatagram (b : Bytes) : Emission Datagram :=
  match b with
  | s0 :: s1 :: d0 :: d1 :: l0 :: l1 :: c0 :: c1 :: data =>
    checkFields b.length
      { sourcePort := word16 s0 s1, destinationPort := word16 d0 d1,
        length := word16 l0 l1, checksum := word16 c0 c1, data := data }
  | _ => fatal [] .truncatedHeader (lengthArg b.length) 0

/-- R230, R231: the four header fields and the payload; an absent operand compares unequal. -/
def datagramEquals (a : Datagram) (other : Option Datagram) : Bool :=
  match other with
  | none => false
  | some o =>
    a.sourcePort == o.sourcePort && a.destinationPort == o.destinationPort &&
    a.length == o.length && a.checksum == o.checksum && bytesEqual a.data o.data

end Sys2Proof.Machine
end

