-- ==== Sys2Proof/Machine/Commands.lean ====
section
/-! DEFINITION. The meanings of the three commands (41_checksum.md R150, 42_encode.md R175, 43_decode.md R205),
each the whole dispatch of 30_encoding.md R92 for its word, and the illegal command (R93). -/

namespace Sys2Proof.Machine

/-- R92 from the prologue on, for a legal word: the length check (R94), then the snapshot (20_memory.md R74),
then the command's own rule on it. -/
def runCommand (v : Word) (body : Bytes → State → State) (s : State) : State :=
  let started := beginCommand v s
  if lengthFits started then body (inputOf started) (afterInput started)
  else failCommit .badInputLength started.inLen (BitVec.ofNat 32 started.cfg.inCap) started

/-- R150 after the prologue. -/
def csumBody (d : Bytes) (s : State) : State :=
  (s.setResults 0 0 0 ((checksum d).setWidth 32)).setOutLen 0

/-- The end of a BUILD or PARSE that failed or succeeded: its notifications (R247), then R246's commit or the
success's own writes. -/
def commit {α : Type} (e : Emission α) (success : α → State → State) (s : State) : State :=
  match e.result with
  | .error code a0 a1 => failCommit code a0 a1 (notifyAll e.notes s)
  | .ok r => success r (notifyAll e.notes s)

/-- R175 after the prologue. -/
def buildBody (d : Bytes) (s : State) : State :=
  commit (buildDatagram (srcOperand s) (dstOperand s) d)
    (fun b t =>
      (writeOut b t).setResults ((srcOperand s).setWidth 32) ((dstOperand s).setWidth 32)
        ((lengthField d).setWidth 32) ((checksum d).setWidth 32))
    s

/-- R205 after the prologue. -/
def parseBody (d : Bytes) (s : State) : State :=
  commit (parseDatagram d)
    (fun g t =>
      (writeOut g.data t).setResults (g.sourcePort.setWidth 32) (g.destinationPort.setWidth 32)
        (g.length.setWidth 32) (g.checksum.setWidth 32))
    s

/-- CSUM (R150). -/
def execCsum (s : State) : Host.Outcome State Fault Refusal :=
  .next (runCommand (encode .csum) csumBody s)

/-- BUILD (R175). -/
def execBuild (s : State) : Host.Outcome State Fault Refusal :=
  .next (runCommand (encode .build) buildBody s)

/-- PARSE (R205). -/
def execParse (s : State) : Host.Outcome State Fault Refusal :=
  .next (runCommand (encode .parse) parseBody s)

/-- R93: the effect of a CMD write of a word that is no command. -/
def illegalCommand (v : Word) (s : State) : State :=
  failCommit .illegalCommand v 0 (beginCommand v s)

end Sys2Proof.Machine
end

