-- ==== Sys2Proof/Machine/Dispatch.lean ====
section
/-! DEFINITION. One arm per command of spec/opcode_table.json (30_encoding.md R91, R92). -/

namespace Sys2Proof.Machine

def exec (i : Instr) (s : State) : Host.Outcome State Fault Refusal :=
  match i with
  -- R150
  | .csum => Sys2Proof.Machine.execCsum s
  -- R175
  | .build => Sys2Proof.Machine.execBuild s
  -- R205
  | .parse => Sys2Proof.Machine.execParse s

end Sys2Proof.Machine
end

