-- ==== Sys2Proof/Machine/HostAccess.lean ====
section
/-! DEFINITION. The host's accesses (20_memory.md R62 to R73): the address map, the four legal kinds, the bus
error, and the CMD write that runs a command (30_encoding.md R92); and the events of the outside. -/

namespace Sys2Proof.Machine

/-- R62: the offset of a bus address in the block, if it is one of the block's. -/
def blockOffset (c : Config) (a : Nat) : Option Nat :=
  if c.Addresses a then some (a - c.base) else none

/-- What an offset names (R62's table). -/
inductive Target where
  | reg (r : Reg)
  | inByte (k : Nat)
  | outByte (k : Nat)
  | unmapped
deriving DecidableEq, Repr

/-- The first offset of the IN window. -/
def inWindow : Nat := 0x10000

/-- The first offset of the OUT window. -/
def outWindow : Nat := 0x20000

/-- The end of the OUT window: from here on the map is empty. -/
def windowsEnd : Nat := 0x30000

/-- R62's map of the offsets. -/
def target (c : Config) (o : Nat) : Target :=
  if o < inWindow then
    match Reg.atOffset o with
    | some r => .reg r
    | none => .unmapped
  else if o < outWindow then
    if o - inWindow < c.inCap then .inByte (o - inWindow) else .unmapped
  else if o < windowsEnd then
    if o - outWindow < c.outCap then .outByte (o - outWindow) else .unmapped
  else .unmapped

/-- R65: the answer changes no register, buffer byte, written-mark or notification. -/
def busError (s : State) : State := s.respond .busError

/-- What is done after a command that gave a next state. -/
def afterNext (f : State → State) :
    Host.Outcome State Fault Refusal → Host.Outcome State Fault Refusal
  | .next s => .next (f s)
  | .fault r => .fault r
  | .refused r => .refused r

/-- R92: a host write of `v` to CMD runs the command `v` is, or R93's failure commit. -/
def writeCmd (v : Word) (s : State) : Host.Outcome State Fault Refusal :=
  match decode v with
  | .ok i => exec i s
  | .error _ => .next (illegalCommand v s)

/-- `r32` (R64): legal at a mapped register; a misaligned one is never split (R71). -/
def read32 (o : Nat) (s : State) : State :=
  if o % 4 ≠ 0 then busError s
  else
    match target s.cfg o with
    | .reg r => s.respond (.data32 (readReg r s))
    | _ => busError s

/-- `w32` (R64): a read-write register stores its defined bits, CMD runs a command, and every other
register is read-only (R65 (f)). -/
def write32 (o : Nat) (v : Word) (s : State) : Host.Outcome State Fault Refusal :=
  if o % 4 ≠ 0 then .next (busError s)
  else
    match target s.cfg o with
    | .reg .cmd => afterNext (State.respond .written) (writeCmd v s)
    | .reg .srcPort => .next ((s.setSrcPort (v &&& Reg.mask .srcPort)).respond .written)
    | .reg .dstPort => .next ((s.setDstPort (v &&& Reg.mask .dstPort)).respond .written)
    | .reg .inLen => .next ((s.setInLen (v &&& Reg.mask .inLen)).respond .written)
    | _ => .next (busError s)

/-- An 8-bit read's answer: the byte, and the draws after it. -/
def answerByte (r : Byte × Nat) (s : State) : State := (s.setDraws r.2).respond (.data8 r.1)

/-- `r8` (R64): an IN byte, a fresh draw where it was never written (R67, R68); an OUT byte below OUT_LEN, and a
fresh draw from there on (R69). -/
def read8 (o : Nat) (s : State) : State :=
  match target s.cfg o with
  | .inByte k => answerByte (s.inBuf.readOrDraw k s.draws) s
  | .outByte k =>
    if k < s.outLen.toNat then answerByte (s.outBuf.readOrDraw k s.draws) s
    else answerByte (Config.freeByte s.draws, s.draws + 1) s
  | _ => busError s

/-- `w8` (R64): an IN byte and its written-mark (R66); OUT is read-only (R65 (g)). -/
def write8 (o : Nat) (v : Byte) (s : State) : State :=
  match target s.cfg o with
  | .inByte k => (s.setInBuf (Memory.write k v s.inBuf)).respond .written
  | _ => busError s

/-- One access, at an offset of the block. -/
def accessAt (o : Nat) (a : Access) (s : State) : Host.Outcome State Fault Refusal :=
  match a with
  | .r32 _ => .next (read32 o s)
  | .w32 _ v => write32 o v s
  | .r8 _ => .next (read8 o s)
  | .w8 _ v => .next (write8 o v s)
  | .other _ _ _ => .next (busError s)

/-- One access, at a bus address (R62; an address that is not the block's: log 6). -/
def runAccess (a : Access) (s : State) : Host.Outcome State Fault Refusal :=
  match blockOffset s.cfg a.addr with
  | some o => accessAt o a s
  | none => .refused .notTheBlock

/-- The byte an answer carries, if it is an 8-bit read's. -/
def byteOf : Response → Option Byte
  | .data8 b => some b
  | .data32 _ | .written | .busError => none

/-- The byte the latest answer carried. -/
def lastByte (s : State) : Option Byte := s.responses.getLast?.bind byteOf

/-- After a copy-back's read: the host keeps the byte it was just answered, and none after a bus error, which
returns no data (R65). -/
def keepAnswer (host : Nat) (s : State) : State :=
  match lastByte s with
  | some b => s.setHeld (Memory.write host b s.held)
  | none => s.setHeld (Memory.erase host s.held)

/-- The first half of `copyback` (R101): the access is R64's `r8`, whole. -/
def copyRead (host addr : Nat) (s : State) : Host.Outcome State Fault Refusal :=
  afterNext (keepAnswer host) (runAccess (.r8 addr) s)

/-- The second half (R101): R64's `w8` of the byte the host keeps.  Where it keeps none, since its read was a bus
error, the byte is the platform's (R65; 93_implementation_defined.md section 2): a free value (log 13). -/
def writeBack (host addr : Nat) (s : State) : Host.Outcome State Fault Refusal :=
  let kept := Memory.readOrDraw s.held host s.draws
  runAccess (.w8 addr kept.1) (s.setDraws kept.2)

/-- One event of the outside, whole (R72, R282). -/
def runEvent (e : Event) (s : State) : Host.Outcome State Fault Refusal :=
  match e with
  | .access a => runAccess a s
  | .copyRead host addr => copyRead host addr s
  | .writeBack host addr => writeBack host addr s
  | .reset => .next (resetBlock s)

/-- The event that hands the block a command word: `w32 CMD, v` (R90). -/
def commandEvent (c : Config) (v : Word) : Event := .access (.w32 (c.base + Reg.offset .cmd) v)

end Sys2Proof.Machine
end

