-- ==== Sys2Proof/Machine/Step.lean ====
section
/-! DEFINITION. One step: the next event of the outside, whole (20_memory.md R64, R72; 70_reset_and_hazards.md
R282).  The block has no program counter and fetches nothing (10_state.md R25, R281): its next
instruction is the next CMD write among the pending events. -/

namespace Sys2Proof.Machine

/-- The next event's effect; with none pending the block waits and nothing changes (R281, R258; log 1). -/
def step (s : State) : Host.Outcome State Fault Refusal :=
  match s.pending with
  | [] => .next s
  | e :: rest => runEvent e (s.setPending rest)

/-- `s` with the write of the command word `w` to CMD placed as the next event (log 1). -/
def State.withFetchWord (s : State) (nbits w : Nat) : State :=
  s.setPending (commandEvent s.cfg (BitVec.ofNat 32 (w % 2 ^ nbits)) :: s.pending)

end Sys2Proof.Machine
end

