-- ==== Sys2Proof/Machine/HostAsm.lean ====
section
/-! DEFINITION. The host assembly of 30_encoding.md R100 and R101: each line as the events it stands for. -/

namespace Sys2Proof.Machine

/-- One line of a host program; an offset is the block's (R100). -/
inductive HostLine where
  | r32 (off : Nat)
  | w32 (off : Nat) (v : Word)
  | r8 (off : Nat)
  | w8 (off : Nat) (v : Byte)
  | csum
  | build
  | parse
  | ports (src dst : Word)
  | setlen (n : Word)
  | load (k : Nat) (bs : Bytes)
  | copyback (n : Nat)
  /-- A test assertion: its only access is the `r32`. -/
  | expect32 (off : Nat) (v : Word)
  /-- As `expect32`, with an `r8`. -/
  | expect8 (off : Nat) (v : Byte)
deriving DecidableEq, Repr

/-- The `w8`s of `load` (R101): consecutive IN bytes from `k`. -/
def loadEvents (base : Nat) : (k : Nat) → Bytes → List Event
  | _, [] => []
  | k, b :: bs => .access (.w8 (base + inWindow + k) b) :: loadEvents base (k + 1) bs

/-- `n` rounds of a host's `copyback` from index `k`: read OUT, write the byte read to IN. -/
def copybackEvents (host base : Nat) : (n k : Nat) → List Event
  | 0, _ => []
  | n + 1, k =>
    .copyRead host (base + outWindow + k) :: .writeBack host (base + inWindow + k) ::
      copybackEvents host base n (k + 1)

/-- R101's expansion, as the events that host `host` makes at a block whose base is `base`. -/
def HostLine.expand (host base : Nat) : HostLine → List Event
  | .r32 off => [.access (.r32 (base + off))]
  | .w32 off v => [.access (.w32 (base + off) v)]
  | .r8 off => [.access (.r8 (base + off))]
  | .w8 off v => [.access (.w8 (base + off) v)]
  | .csum => [.access (.w32 (base + Reg.offset .cmd) 0x00000001)]
  | .build => [.access (.w32 (base + Reg.offset .cmd) 0x00000002)]
  | .parse => [.access (.w32 (base + Reg.offset .cmd) 0x00000003)]
  | .ports src dst =>
    [.access (.w32 (base + Reg.offset .srcPort) src), .access (.w32 (base + Reg.offset .dstPort) dst)]
  | .setlen n => [.access (.w32 (base + Reg.offset .inLen) n)]
  | .load k bs => loadEvents base k bs
  | .copyback n => copybackEvents host base n 0
  | .expect32 off _ => [.access (.r32 (base + off))]
  | .expect8 off _ => [.access (.r8 (base + off))]

/-- The answer a test assertion of R101 states for its read. -/
def HostLine.expected : HostLine → Option Response
  | .expect32 _ v => some (.data32 v)
  | .expect8 _ v => some (.data8 v)
  | .r32 _ | .w32 _ _ | .r8 _ | .w8 _ _ | .csum | .build | .parse | .ports _ _ | .setlen _
  | .load _ _ | .copyback _ => none

/-- A host program's events, in the order of its lines. -/
def expandAll (host base : Nat) (lines : List HostLine) : List Event :=
  lines.flatMap (HostLine.expand host base)

/-- `s` with the events of a program of host `host` placed next, before what was pending (log 1). -/
def State.withProgram (s : State) (host : Nat) (lines : List HostLine) : State :=
  s.setPending (expandAll host s.cfg.base lines ++ s.pending)

end Sys2Proof.Machine
end

