-- ==== Sys2Proof/Safety.lean ====
section
/-! DEFINITION. What claims call a safe run and a good state: the invariant of the block's registers and
buffers, the host's duties before a command (70_reset_and_hazards.md R283), and the events that a block can answer. -/

namespace Sys2Proof.Machine

/-- A word with nothing above its low 16 bits. -/
abbrev lowHalf (v : Word) : Prop := v &&& 0xFFFF = v

/-- The invariant of the block: legal parameters (R8); reserved bits 0 and ERR at most 7 (R28, R30, R31, R33 to
R36); error arguments only with an error and results only without one (R38, R246); buffers in canonical
form and inside their capacities (R39, R40); OUT_LEN at most `OUT_CAP` with every OUT byte below it defined
(R37, R40); the model's own record of what hosts keep in canonical form (log 13). -/
structure State.Inv (s : State) : Prop where
  cfg_valid : s.cfg.Valid
  status_reserved : s.status &&& Status.mask = s.status
  err_legal : (Status.err s.status).toNat ≤ 7
  srcPort_low : lowHalf s.srcPort
  dstPort_low : lowHalf s.dstPort
  resSrc_low : lowHalf s.resSrc
  resDst_low : lowHalf s.resDst
  resLen_low : lowHalf s.resLen
  resCsum_low : lowHalf s.resCsum
  args_zero_on_success : Status.err s.status = 0 → s.errArg0 = 0 ∧ s.errArg1 = 0
  results_zero_on_error : Status.err s.status ≠ 0 →
    s.resSrc = 0 ∧ s.resDst = 0 ∧ s.resLen = 0 ∧ s.resCsum = 0 ∧ s.outLen = 0
  in_wf : s.inBuf.wf
  in_within : s.inBuf.within s.cfg.inCap
  out_wf : s.outBuf.wf
  out_within : s.outBuf.within s.cfg.outCap
  outLen_le : s.outLen.toNat ≤ s.cfg.outCap
  held_wf : s.held.wf
  out_defined : ∀ k, k < s.outLen.toNat → s.outBuf.written k = true

/-- Every byte of `IN[0 : n]` was written since reset (R283 (1)). -/
def State.inputWritten (s : State) (n : Nat) : Prop := ∀ k, k < n → s.inBuf.written k = true

/-- The event is reset, or an access to one of the block's addresses. -/
def Event.answerable (c : Config) : Event → Prop
  | .access a => c.Addresses a.addr
  | .copyRead _ a => c.Addresses a
  | .writeBack _ a => c.Addresses a
  | .reset => True

/-- Every pending event is one the block answers by itself: none leads outside the model. -/
def State.Answerable (s : State) : Prop := ∀ e ∈ s.pending, e.answerable s.cfg

/-- The run of `n` steps from `s` never stops and ends in `t`. -/
def runsTo : Nat → State → State → Prop
  | 0, s, t => s = t
  | n + 1, s, t => ∃ u, step s = .next u ∧ runsTo n u t

end Sys2Proof.Machine
end

