-- ==== Sys2Proof/Certificates/Slice0/Obligations.lean ====
section
/-! DEFINITION. The statements for the provers.  `Sys2Proof.Claims` holds the words they are said in, written
from the spec in Nat and list arithmetic and not from the model's own definitions. -/

namespace Sys2Proof.Claims

open Sys2Proof.Machine

/-- `s[i]` as a number (00_scope.md R10); 0 past the end, where no statement looks. -/
def byteAt (b : Bytes) (i : Nat) : Nat := (b.getD i 0).toNat

/-- The big-endian 16-bit integer at index `i` (20_memory.md R61). -/
def beAt (b : Bytes) (i : Nat) : Nat := 256 * byteAt b i + byteAt b (i + 1)

/-- The two bytes of a 16-bit integer, big-endian. -/
def be16 (n : Nat) : Bytes := [BitVec.ofNat 8 (n / 256), BitVec.ofNat 8 n]

/-- 41_checksum.md R145: the sum of the complete pairs, in index order. -/
def pairSum (d : Bytes) : Half :=
  (List.range (d.length / 2)).foldl (fun s i => csumAdd s (BitVec.ofNat 16 (beAt d (2 * i)))) 0

/-- R146: with an odd length, the last byte as the high byte of a word, added after the pairs. -/
def walkSum (d : Bytes) : Half :=
  if d.length % 2 = 1 then csumAdd (pairSum d) (BitVec.ofNat 16 (256 * byteAt d (d.length - 1)))
  else pairSum d

/-- The exact sum of the words R145 and R146 add, without any folding. -/
def wordTotal (d : Bytes) : Nat :=
  ((List.range (d.length / 2)).map (fun i => beAt d (2 * i))).sum +
    (if d.length % 2 = 1 then 256 * byteAt d (d.length - 1) else 0)

/-- The wire format of 20_memory.md R60. -/
def wire (src dst csum : Nat) (data : Bytes) : Bytes :=
  be16 src ++ be16 dst ++ be16 (8 + data.length) ++ be16 csum ++ data

/-- An ERROR record (60_exceptions.md R244). -/
def errorNote (c : Code) (a0 a1 : Word) : Notification :=
  { level := .error, code := c, arg0 := a0, arg1 := a1 }

/-- A WARN record (R241). -/
def warnNote (c : Code) : Notification := { level := .warn, code := c, arg0 := 0, arg1 := 0 }

/-- `Error(code, a0, a1)` and its ERROR notification, after the notifications `ws`. -/
def failing {α : Type} (ws : List Notification) (c : Code) (a0 a1 : Word) : Emission α :=
  { notes := ws ++ [errorNote c a0 a1], result := .error c a0 a1 }

/-- A decode's warnings, in the order of 43_decode.md R203: CHECKSUM_ZERO, then SRC_PORT_ZERO. -/
def decodeWarnings (csum src : Nat) : List Notification :=
  (if csum = 0 then [warnNote .checksumZero] else []) ++
  (if src = 0 then [warnNote .srcPortZero] else [])

/-- What a failed command leaves (60_exceptions.md R246): STATUS as given, the two arguments, every result 0,
OUT not written; `ns` are the notifications it emitted and `d` the count of draws after it. -/
def failed (status a0 a1 : Word) (ns : List Notification) (d : Nat) (s : State) : State :=
  { s with
    status := status, errArg0 := a0, errArg1 := a1,
    resSrc := 0, resDst := 0, resLen := 0, resCsum := 0, outLen := 0,
    notes := s.notes ++ ns, draws := d }

/-- The opcode of each command (30_encoding.md R91). -/
def op : Instr → Nat
  | .csum => 1
  | .build => 2
  | .parse => 3

/-- The legal command words (R91). -/
def legalWord (v : Word) : Prop := v = 1 ∨ v = 2 ∨ v = 3

/-- The low 16 bits of SRC_PORT and DST_PORT as numbers. -/
def srcOf (s : State) : Nat := s.srcPort.toNat % 65536

def dstOf (s : State) : Nat := s.dstPort.toNat % 65536

/-- WSRC and WCSUM at their places in STATUS (10_state.md R28). -/
def warnBits (csum src : Nat) : Nat := (if csum = 0 then 0x20 else 0) + (if src = 0 then 0x10 else 0)

/-- The results of a command: the registers it writes. -/
def resultRegs (s : State) : List Word :=
  [s.status, s.errArg0, s.errArg1, s.resSrc, s.resDst, s.resLen, s.resCsum, s.outLen]

/-- A mapped register offset (20_memory.md R62). -/
def regMapped (o : Nat) : Prop := o % 4 = 0 ∧ o ≤ 0x2C

def inMapped (c : Config) (o : Nat) : Prop := 0x10000 ≤ o ∧ o < 0x20000 ∧ o < 0x10000 + c.inCap

def outMapped (c : Config) (o : Nat) : Prop := 0x20000 ≤ o ∧ o < 0x30000 ∧ o < 0x20000 + c.outCap

/-- The width of an access, in bits. -/
def width : Access → Nat
  | .r32 _ => 32
  | .w32 _ _ => 32
  | .r8 _ => 8
  | .w8 _ _ => 8
  | .other bits _ _ => bits

/-- The access is a write. -/
def isWrite : Access → Prop
  | .r32 _ => False
  | .w32 _ _ => True
  | .r8 _ => False
  | .w8 _ _ => True
  | .other _ w _ => w = true

/-- 20_memory.md R65 (a) to (g), for an access `a` at offset `o`. -/
def busErrorCase (c : Config) (o : Nat) (a : Access) : Prop :=
  (¬ regMapped o ∧ ¬ inMapped c o ∧ ¬ outMapped c o) ∨
  (width a = 8 ∧ o < 0x10000) ∨
  (width a ≠ 8 ∧ 0x10000 ≤ o ∧ o < 0x30000) ∨
  (width a = 16) ∨
  (width a = 32 ∧ o % 4 ≠ 0) ∨
  (isWrite a ∧ o ∈ [0x004, 0x014, 0x018, 0x01C, 0x020, 0x024, 0x028, 0x02C]) ∨
  (isWrite a ∧ 0x20000 ≤ o ∧ o < 0x30000)

/-- The register the host sees at each offset, by 10_state.md section 3, with reserved bits 0. -/
def shown (s : State) : List (Nat × Word) :=
  [(0x000, 0), (0x004, s.status &&& 0xF3F), (0x008, s.srcPort &&& 0xFFFF),
   (0x00C, s.dstPort &&& 0xFFFF), (0x010, s.inLen), (0x014, s.resSrc &&& 0xFFFF),
   (0x018, s.resDst &&& 0xFFFF), (0x01C, s.resLen &&& 0xFFFF), (0x020, s.resCsum &&& 0xFFFF),
   (0x024, s.outLen), (0x028, s.errArg0), (0x02C, s.errArg1)]

/-- The events that are accesses of a host: each gets one answer. -/
def isAccess : Event → Bool
  | .access _ => true
  | .copyRead _ _ => true
  | .writeBack _ _ => true
  | .reset => false

/-- The bus address an event's access is made to, if the event is one. -/
def addressOf : Event → Option Nat
  | .access a => some a.addr
  | .copyRead _ a => some a
  | .writeBack _ a => some a
  | .reset => none

/-- The records the block may emit (R240 to R242): a warning with code 8 or 9 and no argument, or an error with
a code of 1 to 5. -/
def legalNote (n : Notification) : Prop :=
  (n.level = .warn ∧ (n.code = .srcPortZero ∨ n.code = .checksumZero) ∧ n.arg0 = 0 ∧ n.arg1 = 0) ∨
  (n.level = .error ∧ 1 ≤ n.code.num.toNat ∧ n.code.num.toNat ≤ 5)

end Sys2Proof.Claims

open Sys2Proof Sys2Proof.Machine Sys2Proof.Claims

/-! ## The core: bytes and the checksum -/

/-- R120 to R123: what the four primitives compute.  That `unpackUint16` gives no result for any other length
than 2 is the model's choice (log 15, DEDUCED: R121 calls such a call undefined input). -/
def Obligations.ByteCodecPrimitives : Prop :=
  (∀ v : Half, packUint16 v = be16 v.toNat) ∧
  (∀ b : Bytes, b.length = 2 → ∃ v, unpackUint16 b = some v ∧ v.toNat = beAt b 0) ∧
  (∀ b : Bytes, b.length ≠ 2 → unpackUint16 b = none) ∧
  (∀ ss : List Bytes, concat ss = ss.flatten ∧ (concat ss).length = (ss.map List.length).sum) ∧
  (∀ a b : Bytes, bytesEqual a b = true ↔ a = b)

/-- R124, both directions (the second is the spec's own [derived] sentence). -/
def Obligations.PackingInvertible : Prop :=
  (∀ v : Half, unpackUint16 (packUint16 v) = some v) ∧
  (∀ b : Bytes, b.length = 2 → (unpackUint16 b).map packUint16 = some b)

/-- R140: carry-around addition, with its worked corner cases and its example.  The result is stated as a number, so
no bit is lost by the truncation and one fold suffices. -/
def Obligations.CarryAroundAddition : Prop :=
  (∀ s w : Half, (csumAdd s w).toNat =
    if s.toNat + w.toNat > 0xFFFF then
      (s.toNat + w.toNat) % 0x10000 + (s.toNat + w.toNat) / 0x10000
    else s.toNat + w.toNat) ∧
  (∀ w : Half, csumAdd 0 w = w) ∧
  csumAdd 0xFFFF 0x0001 = 0x0001 ∧ csumAdd 0xFFFF 0xFFFF = 0xFFFF ∧ csumAdd 0xC4C6 0x6566 = 0x2A2D

/-- The two sentences that R140 marks [derived]: the exact sum is at most 0x1FFFE, and the result is 0 only when
both operands are. -/
def Obligations.CarryAroundZeroOnlyFromZeros : Prop :=
  ∀ s w : Half, s.toNat + w.toNat ≤ 0x1FFFE ∧ (csumAdd s w = 0 ↔ s = 0 ∧ w = 0)

/-- R142 to R147: the checksum of every length, with the walk said by indexes. -/
def Obligations.ChecksumFollowsTheWalk : Prop :=
  checksum [] = 0xFFFF ∧
  (∀ b : Byte, (checksum [b]).toNat = 0xFF00 + (255 - b.toNat)) ∧
  (∀ d : Bytes, 2 ≤ d.length → checksum d = ~~~ (walkSum d)) ∧
  checksum [0x61, 0x62, 0x63, 0x64, 0x65, 0x66] = 0xD5D2

/-- What R141 remarks of R140's addition (from general knowledge, not a rule of the source): the complement of
the checksum is the exact sum of the words modulo 0xFFFF, and it is 0 only when every word is 0. -/
def Obligations.ChecksumIsOnesComplementSum : Prop :=
  ∀ d : Bytes, 2 ≤ d.length →
    (~~~ (checksum d)).toNat % 0xFFFF = wordTotal d % 0xFFFF ∧
    (~~~ (checksum d) = 0 ↔ wordTotal d = 0)

/-- R151, which the spec marks [derived]: when the checksum is 0xFFFF and when it is 0. -/
def Obligations.ChecksumExtremes : Prop :=
  ∀ d : Bytes, 2 ≤ d.length →
    (walkSum d = 0 ↔ ∀ b ∈ d, b = 0) ∧
    (checksum d = 0xFFFF ↔ ∀ b ∈ d, b = 0) ∧
    (checksum d = 0 ↔ walkSum d = 0xFFFF)

/-- Derived from R140 and R145: what a receiver relies on.  A payload of even length followed by its own checksum sums
to 0xFFFF, so its checksum is 0. -/
def Obligations.AppendedChecksumVerifies : Prop :=
  ∀ d : Bytes, 2 ≤ d.length → d.length % 2 = 0 → checksum (d ++ packUint16 (checksum d)) = 0

/-! ## The core: datagrams -/

/-- R170 to R174: the checks in order, and the byte form.  The length argument of PAYLOAD_TOO_LONG is stated for
lengths that a 32-bit argument can hold. -/
def Obligations.BuildDatagramResult : Prop :=
  ∀ (src dst : Half) (data : Bytes),
    (dst = 0 → buildDatagram src dst data = failing [] .invalidDstPort 0 0) ∧
    (dst ≠ 0 → data = [] → buildDatagram src dst data = failing [] .emptyPayload 0 0) ∧
    (dst ≠ 0 → 65527 < data.length → data.length < 2 ^ 32 →
      buildDatagram src dst data = failing [] .payloadTooLong (BitVec.ofNat 32 data.length) 65527) ∧
    (dst ≠ 0 → 1 ≤ data.length → data.length ≤ 65527 →
      buildDatagram src dst data =
        { notes := if src = 0 then [warnNote .srcPortZero] else [],
          result := .ok (wire src.toNat dst.toNat (checksum data).toNat data) })

/-- R200 to R203: the guard, the fields, the checks in order and the warnings that stay when the last check
fails. -/
def Obligations.ParseDatagramResult : Prop :=
  ∀ b : Bytes, b.length < 2 ^ 32 →
    (b.length < 8 → parseDatagram b = failing [] .truncatedHeader (BitVec.ofNat 32 b.length) 0) ∧
    (8 ≤ b.length → b.length ≠ beAt b 4 →
      parseDatagram b =
        failing [] .lengthMismatch (BitVec.ofNat 32 (beAt b 4)) (BitVec.ofNat 32 b.length)) ∧
    (8 ≤ b.length → b.length = beAt b 4 → beAt b 2 = 0 →
      parseDatagram b = failing (decodeWarnings (beAt b 6) (beAt b 0)) .invalidDstPort 0 0) ∧
    (8 ≤ b.length → b.length = beAt b 4 → beAt b 2 ≠ 0 →
      parseDatagram b =
        { notes := decodeWarnings (beAt b 6) (beAt b 0),
          result := .ok
            { sourcePort := BitVec.ofNat 16 (beAt b 0), destinationPort := BitVec.ofNat 16 (beAt b 2),
              length := BitVec.ofNat 16 (beAt b 4), checksum := BitVec.ofNat 16 (beAt b 6),
              data := b.drop 8 } })

/-- R204: a datagram decodes with whatever its checksum field holds. -/
def Obligations.DecodeTrustsChecksumField : Prop :=
  ∀ (src dst csum : Half) (data : Bytes), dst ≠ 0 → data.length ≤ 65527 →
    (parseDatagram (wire src.toNat dst.toNat csum.toNat data)).result =
      .ok { sourcePort := src, destinationPort := dst, length := BitVec.ofNat 16 (8 + data.length),
            checksum := csum, data := data }

/-- R21 and R207, which the spec marks [derived]: what a decoded datagram satisfies, and when the length check
passes. -/
def Obligations.DecodedLengthAgrees : Prop :=
  ∀ b : Bytes,
    (∀ g, (parseDatagram b).result = .ok g →
      g.length.toNat = 8 + g.data.length ∧ b.length = 8 + g.data.length ∧ g.destinationPort ≠ 0) ∧
    (65535 < b.length → ∃ a0 a1, (parseDatagram b).result = .error .lengthMismatch a0 a1) ∧
    (8 ≤ b.length →
      ((∃ a0 a1, (parseDatagram b).result = .error .lengthMismatch a0 a1) ↔ beAt b 4 ≠ b.length))

/-- R176, whose second half the spec marks [derived]: encode then decode gives back what was encoded, with exactly
the warnings of a zero checksum and of a zero source port. -/
def Obligations.EncodeThenDecode : Prop :=
  ∀ (src dst : Half) (data : Bytes), dst ≠ 0 → 1 ≤ data.length → data.length ≤ 65527 →
    ∃ b, (buildDatagram src dst data).result = .ok b ∧
      parseDatagram b =
        { notes := decodeWarnings (checksum data).toNat src.toNat,
          result := .ok
            { sourcePort := src, destinationPort := dst, length := BitVec.ofNat 16 (8 + data.length),
              checksum := checksum data, data := data } }

/-- The other direction, derived from R170 and R200: a datagram that decodes with a payload and with its payload's own
checksum is the one an encode of its fields gives. -/
def Obligations.DecodeThenEncode : Prop :=
  ∀ (b : Bytes) (g : Datagram), (parseDatagram b).result = .ok g → g.data ≠ [] →
    g.checksum = checksum g.data →
    (buildDatagram g.sourcePort g.destinationPort g.data).result = .ok b

/-- R244: an error's notification comes last, with the error's own code and arguments, after warnings only, and a
success emits no ERROR; the shell's own two errors emit nothing. -/
def Obligations.ErrorNotifiedJustBeforeReturn : Prop :=
  (∀ (src dst : Half) (data : Bytes) (c : Code) (a0 a1 : Word),
    (buildDatagram src dst data).result = .error c a0 a1 →
      ∃ ws, (buildDatagram src dst data).notes = ws ++ [errorNote c a0 a1] ∧
        (∀ n ∈ ws, n.level = .warn) ∧ 1 ≤ c.num.toNat ∧ c.num.toNat ≤ 5) ∧
  (∀ (b : Bytes) (c : Code) (a0 a1 : Word),
    (parseDatagram b).result = .error c a0 a1 →
      ∃ ws, (parseDatagram b).notes = ws ++ [errorNote c a0 a1] ∧
        (∀ n ∈ ws, n.level = .warn) ∧ 1 ≤ c.num.toNat ∧ c.num.toNat ≤ 5) ∧
  (∀ (src dst : Half) (data r : Bytes), (buildDatagram src dst data).result = .ok r →
    ∀ n ∈ (buildDatagram src dst data).notes, n.level = .warn) ∧
  (∀ (b : Bytes) (g : Datagram), (parseDatagram b).result = .ok g →
    ∀ n ∈ (parseDatagram b).notes, n.level = .warn) ∧
  (∀ (v : Word) (s t : State), writeCmd v s = .next t →
    (Status.err t.status = 6 ∨ Status.err t.status = 7) → t.notes = s.notes)

/-- R230: equality is value equality of all five fields, and an absent operand compares unequal. -/
def Obligations.DatagramEqualityIsByValue : Prop :=
  (∀ a o : Datagram, datagramEquals a (some o) = true ↔ a = o) ∧
  (∀ a : Datagram, datagramEquals a none = false)

/-! ## Decoding and dispatch -/

/-- R91 (and R97, which the spec marks [derived]): a word is a command exactly when it is 1, 2 or 3, each its own
command's word, and is refused by name otherwise. -/
def Obligations.DecoderTotalAndExact : Prop :=
  (∀ (v : Word) (i : Instr), decode v = .ok i ↔ v = BitVec.ofNat 32 (op i)) ∧
  (∀ v : Word, ¬ legalWord v → ∃ e, decode v = .error e) ∧
  (∀ (v : Word) (i : Instr), decode v = .ok i ↔ encode i = v)

/-- A few words written out from R90 and R91: OP below, zeros above.  That the other words are refused is R93's; the
two names they are refused under are the model's choice (log 14). -/
def Obligations.WordsDecodeAsListed : Prop :=
  decode 0b00000000000000000000000000000001 = .ok .csum ∧
  decode 0b00000000000000000000000000000010 = .ok .build ∧
  decode 0b00000000000000000000000000000011 = .ok .parse ∧
  decode 0x00000000 = .error .noSuchOpcode ∧ decode 0x00000004 = .error .noSuchOpcode ∧
  decode 0x00000012 = .error .reservedBitsNotZero ∧ decode 0x80000001 = .error .reservedBitsNotZero

/-- A step whose event writes a command's word to CMD runs that command, on the state without the event; the
answer to the write is recorded after it. -/
def Obligations.StepRunsTheDecodedCommand : Prop :=
  ∀ (s : State) (rest : List Event) (v : Word) (i : Instr),
    s.pending = .access (.w32 s.cfg.base v) :: rest → decode v = .ok i →
    ∃ t, exec i { s with pending := rest } = .next t ∧
      step s = .next { t with responses := t.responses ++ [.written] }

/-- R93: the whole effect of a CMD write of a word that is no command.  That the write is answered as completed,
although its command failed, is the model's choice (log 2, DESIGN CHOICE; R64 gives a CMD write no other answer). -/
def Obligations.IllegalCommandEffect : Prop :=
  ∀ (s : State) (rest : List Event) (v : Word),
    s.pending = .access (.w32 s.cfg.base v) :: rest → ¬ legalWord v →
    step s = .next
      { failed ((v &&& 0xF) <<< 8 ||| 7) v 0 [] s.draws s with
        pending := rest, responses := s.responses ++ [.written] }

/-- R94: the whole effect of each command when IN_LEN is above `IN_CAP`. -/
def Obligations.InputLengthTooBig : Prop :=
  ∀ (i : Instr) (s : State), s.cfg.inCap < s.inLen.toNat →
    exec i s = .next
      (failed (BitVec.ofNat 32 (256 * op i + 6)) s.inLen (BitVec.ofNat 32 s.cfg.inCap) [] s.draws s)

/-! ## The commands -/

/-- R74: the snapshot has IN_LEN bytes; each written byte is the byte the host wrote; and when all are written
nothing undefined is read. -/
def Obligations.SnapshotIsTheInput : Prop :=
  ∀ s : State,
    (inputOf s).length = s.inLen.toNat ∧
    (∀ k b, k < s.inLen.toNat → s.inBuf.read k = some b → (inputOf s)[k]? = some b) ∧
    (s.inputWritten s.inLen.toNat → (inputTaken s).2 = s.draws)

/-- R68, with the model's free value (log 3): a never-written byte of the snapshot is one of the draws made for
this command, and no two of them are the same draw. -/
def Obligations.UnwrittenInputIsDrawn : Prop :=
  ∀ s : State, ∃ drawOf : Nat → Nat,
    (∀ k, k < s.inLen.toNat → s.inBuf.read k = none →
      (inputOf s)[k]? = some (Config.freeByte (drawOf k)) ∧
      s.draws ≤ drawOf k ∧ drawOf k < (inputTaken s).2) ∧
    (∀ j k, j < k → k < s.inLen.toNat → s.inBuf.read j = none → s.inBuf.read k = none →
      drawOf j < drawOf k)

/-- R150: CSUM's word, its whole effect when IN_LEN fits (it then completes), and its one error. -/
def Obligations.CsumEffect : Prop :=
  decode 0x00000001 = .ok .csum ∧
  ∀ s : State,
    (s.inLen.toNat ≤ s.cfg.inCap →
      exec .csum s = .next
        { s with
          status := 0x00000100, errArg0 := 0, errArg1 := 0, resSrc := 0, resDst := 0, resLen := 0,
          resCsum := BitVec.ofNat 32 (checksum (inputOf s)).toNat, outLen := 0,
          draws := (inputTaken s).2 }) ∧
    (s.cfg.inCap < s.inLen.toNat →
      exec .csum s = .next
        (failed 0x106 s.inLen (BitVec.ofNat 32 s.cfg.inCap) [] s.draws s))

/-- R175: BUILD's word, its whole effect when its checks pass (it then completes), with OUT said byte by byte, and its
whole effect for each of its errors. -/
def Obligations.BuildEffect : Prop :=
  decode 0x00000002 = .ok .build ∧
  ∀ s : State,
    (s.cfg.inCap < s.inLen.toNat →
      exec .build s = .next
        (failed 0x206 s.inLen (BitVec.ofNat 32 s.cfg.inCap) [] s.draws s)) ∧
    (s.inLen.toNat ≤ s.cfg.inCap → dstOf s = 0 →
      exec .build s = .next
        (failed 0x201 0 0 [errorNote .invalidDstPort 0 0] (inputTaken s).2 s)) ∧
    (s.inLen.toNat ≤ s.cfg.inCap → dstOf s ≠ 0 → s.inLen.toNat = 0 →
      exec .build s = .next
        (failed 0x202 0 0 [errorNote .emptyPayload 0 0] (inputTaken s).2 s)) ∧
    (s.inLen.toNat ≤ s.cfg.inCap → dstOf s ≠ 0 → 65527 < s.inLen.toNat →
      exec .build s = .next
        (failed 0x205 s.inLen 65527 [errorNote .payloadTooLong s.inLen 65527] (inputTaken s).2 s)) ∧
    (s.inLen.toNat ≤ s.cfg.inCap → dstOf s ≠ 0 → 1 ≤ s.inLen.toNat → s.inLen.toNat ≤ 65527 →
      ∃ t, exec .build s = .next t ∧
        t = { s with
          status := BitVec.ofNat 32 (0x200 + if srcOf s = 0 then 0x10 else 0),
          errArg0 := 0, errArg1 := 0,
          resSrc := BitVec.ofNat 32 (srcOf s), resDst := BitVec.ofNat 32 (dstOf s),
          resLen := BitVec.ofNat 32 (8 + s.inLen.toNat),
          resCsum := BitVec.ofNat 32 (checksum (inputOf s)).toNat,
          outLen := BitVec.ofNat 32 (8 + s.inLen.toNat), outBuf := t.outBuf,
          notes := s.notes ++ (if srcOf s = 0 then [warnNote .srcPortZero] else []),
          draws := (inputTaken s).2 } ∧
        ∀ k, t.outBuf.read k =
          if k < 8 + s.inLen.toNat then
            (wire (srcOf s) (dstOf s) (checksum (inputOf s)).toNat (inputOf s))[k]?
          else s.outBuf.read k)

/-- R205: PARSE's word, its whole effect when its checks pass (it then completes), with OUT said byte by byte, and its
whole effect for each of its errors. -/
def Obligations.ParseEffect : Prop :=
  decode 0x00000003 = .ok .parse ∧
  ∀ s : State,
    (s.cfg.inCap < s.inLen.toNat →
      exec .parse s = .next
        (failed 0x306 s.inLen (BitVec.ofNat 32 s.cfg.inCap) [] s.draws s)) ∧
    (s.inLen.toNat ≤ s.cfg.inCap → s.inLen.toNat < 8 →
      exec .parse s = .next
        (failed 0x304 s.inLen 0 [errorNote .truncatedHeader s.inLen 0] (inputTaken s).2 s)) ∧
    (s.inLen.toNat ≤ s.cfg.inCap → 8 ≤ s.inLen.toNat → beAt (inputOf s) 4 ≠ s.inLen.toNat →
      exec .parse s = .next
        (failed 0x303 (BitVec.ofNat 32 (beAt (inputOf s) 4)) s.inLen
          [errorNote .lengthMismatch (BitVec.ofNat 32 (beAt (inputOf s) 4)) s.inLen]
          (inputTaken s).2 s)) ∧
    (s.inLen.toNat ≤ s.cfg.inCap → 8 ≤ s.inLen.toNat → beAt (inputOf s) 4 = s.inLen.toNat →
      beAt (inputOf s) 2 = 0 →
      exec .parse s = .next
        (failed (BitVec.ofNat 32 (0x301 + warnBits (beAt (inputOf s) 6) (beAt (inputOf s) 0))) 0 0
          (decodeWarnings (beAt (inputOf s) 6) (beAt (inputOf s) 0) ++
            [errorNote .invalidDstPort 0 0])
          (inputTaken s).2 s)) ∧
    (s.inLen.toNat ≤ s.cfg.inCap → 8 ≤ s.inLen.toNat → beAt (inputOf s) 4 = s.inLen.toNat →
      beAt (inputOf s) 2 ≠ 0 →
      ∃ t, exec .parse s = .next t ∧
        t = { s with
          status := BitVec.ofNat 32 (0x300 + warnBits (beAt (inputOf s) 6) (beAt (inputOf s) 0)),
          errArg0 := 0, errArg1 := 0,
          resSrc := BitVec.ofNat 32 (beAt (inputOf s) 0),
          resDst := BitVec.ofNat 32 (beAt (inputOf s) 2),
          resLen := BitVec.ofNat 32 (beAt (inputOf s) 4),
          resCsum := BitVec.ofNat 32 (beAt (inputOf s) 6),
          outLen := BitVec.ofNat 32 (s.inLen.toNat - 8), outBuf := t.outBuf,
          notes := s.notes ++ decodeWarnings (beAt (inputOf s) 6) (beAt (inputOf s) 0),
          draws := (inputTaken s).2 } ∧
        ∀ k, t.outBuf.read k =
          if k < s.inLen.toNat - 8 then (inputOf s)[8 + k]? else s.outBuf.read k)

/-- R248: the one error a CMD write reports, as a single chain of checks over the state before it. -/
def Obligations.FirstFailingCheckIsReported : Prop :=
  ∀ (s : State) (rest : List Event) (v : Word),
    s.pending = .access (.w32 s.cfg.base v) :: rest →
    ∃ t, step s = .next t ∧
      (Status.err t.status).toNat =
        if v ≠ 1 ∧ v ≠ 2 ∧ v ≠ 3 then 7
        else if s.cfg.inCap < s.inLen.toNat then 6
        else if v = 2 then
          if dstOf s = 0 then 1 else if s.inLen.toNat = 0 then 2
          else if 65527 < s.inLen.toNat then 5 else 0
        else if v = 3 then
          if s.inLen.toNat < 8 then 4
          else if beAt (inputOf s) 4 ≠ s.inLen.toNat then 3
          else if beAt (inputOf s) 2 = 0 then 1 else 0
        else 0

/-- The frame of the three commands (R74, R95, R41): what no command changes, when it gives a next state.  OUT is
unchanged outside the bytes a success stores, `OUT[0 : OUT_LEN]`, and the stream keeps what was emitted. -/
def Obligations.CommandFrame : Prop :=
  ∀ (i : Instr) (s t : State), exec i s = .next t →
    t.cfg = s.cfg ∧ t.srcPort = s.srcPort ∧ t.dstPort = s.dstPort ∧ t.inLen = s.inLen ∧
    t.inBuf = s.inBuf ∧ t.pending = s.pending ∧ t.responses = s.responses ∧ t.held = s.held ∧
    (∃ ns, t.notes = s.notes ++ ns) ∧ s.draws ≤ t.draws ∧
    (∀ k, t.outLen.toNat ≤ k → t.outBuf.read k = s.outBuf.read k) ∧
    (i = .csum → t.outBuf = s.outBuf)

/-- R246: after a command that failed every result register and OUT_LEN read 0, OUT was not written, and the
host's own registers and IN are as they were. -/
def Obligations.FailureReturnsNoData : Prop :=
  ∀ (i : Instr) (s t : State), exec i s = .next t → Status.err t.status ≠ 0 →
    t.resSrc = 0 ∧ t.resDst = 0 ∧ t.resLen = 0 ∧ t.resCsum = 0 ∧ t.outLen = 0 ∧
    t.outBuf = s.outBuf ∧ t.inBuf = s.inBuf ∧
    t.srcPort = s.srcPort ∧ t.dstPort = s.dstPort ∧ t.inLen = s.inLen

/-- R28, R92 and R247: STATUS after each command.  LASTOP is its opcode, ERR is at most 7, the reserved bits are 0,
and a warning bit is 1 exactly when this command emitted that warning, whether it failed or not. -/
def Obligations.StatusAfterCommand : Prop :=
  ∀ (i : Instr) (s t : State), exec i s = .next t →
    (Status.lastOp t.status).toNat = op i ∧ (Status.err t.status).toNat ≤ 7 ∧
    t.status &&& 0xFFFFF0C0 = 0 ∧
    ∃ ns, t.notes = s.notes ++ ns ∧
      (Status.wsrc t.status = true ↔ warnNote .srcPortZero ∈ ns) ∧
      (Status.wcsum t.status = true ↔ warnNote .checksumZero ∈ ns)

/-- R26: with every input byte written, what a CMD write of any word `v` leaves depends only on `v`, the ports,
IN_LEN, `IN_CAP` and the input bytes: two states that agree on those get the same registers, OUT bytes and
notifications. -/
def Obligations.ResultsDependOnInputsOnly : Prop :=
  ∀ (v : Word) (s s' t t' : State),
    s.cfg.inCap = s'.cfg.inCap → s.srcPort = s'.srcPort → s.dstPort = s'.dstPort →
    s.inLen = s'.inLen → s.inputWritten s.inLen.toNat →
    (∀ k, k < s.inLen.toNat → s.inBuf.read k = s'.inBuf.read k) →
    writeCmd v s = .next t → writeCmd v s' = .next t' →
    resultRegs t = resultRegs t' ∧
    (∀ k, k < t.outLen.toNat → t.outBuf.read k = t'.outBuf.read k) ∧
    ∃ ns, t.notes = s.notes ++ ns ∧ t'.notes = s'.notes ++ ns

/-- R73 (its clause on commands is the spec's own [derived] one): the same command again, with every input byte written, has the same
results and appends its notifications again. -/
def Obligations.RepeatedCommandRepeats : Prop :=
  ∀ (i : Instr) (s t : State), s.inputWritten s.inLen.toNat → exec i s = .next t →
    ∃ ns, t.notes = s.notes ++ ns ∧
      ∃ u, exec i t = .next u ∧ u = { t with notes := t.notes ++ ns, outBuf := u.outBuf } ∧
        ∀ k, u.outBuf.read k = t.outBuf.read k

/-! ## Host accesses -/

/-- R64 (`r32`), R27 and R73: a read at each mapped register answers its value with reserved bits 0 and changes
nothing else; CMD answers 0. -/
def Obligations.RegisterReadAnswers : Prop :=
  ∀ (s : State) (rest : List Event) (o : Nat) (v : Word), (o, v) ∈ shown s →
    s.pending = .access (.r32 (s.cfg.base + o)) :: rest →
    step s = .next { s with pending := rest, responses := s.responses ++ [.data32 v] }

/-- R64 (`w32`), R30, R31 and R32: a write at each read-write register stores its defined bits and changes nothing
else. -/
def Obligations.RegisterWriteStores : Prop :=
  ∀ (s : State) (rest : List Event) (v : Word),
    (s.pending = .access (.w32 (s.cfg.base + 0x008) v) :: rest →
      step s = .next { s with
        pending := rest, responses := s.responses ++ [.written],
        srcPort := BitVec.ofNat 32 (v.toNat % 65536) }) ∧
    (s.pending = .access (.w32 (s.cfg.base + 0x00C) v) :: rest →
      step s = .next { s with
        pending := rest, responses := s.responses ++ [.written],
        dstPort := BitVec.ofNat 32 (v.toNat % 65536) }) ∧
    (s.pending = .access (.w32 (s.cfg.base + 0x010) v) :: rest →
      step s = .next { s with
        pending := rest, responses := s.responses ++ [.written], inLen := v })

/-- R66 and R67: a write of an IN byte sets that byte and its written-mark and no other, and a read of a written byte
answers the byte and changes nothing else. -/
def Obligations.InputByteAccess : Prop :=
  ∀ (s : State) (rest : List Event) (k : Nat), s.cfg.Valid → k < s.cfg.inCap →
    (∀ v : Byte, s.pending = .access (.w8 (s.cfg.base + 0x10000 + k) v) :: rest →
      ∃ t, step s = .next t ∧
        t = { s with
          pending := rest, responses := s.responses ++ [.written], inBuf := t.inBuf } ∧
        ∀ j, t.inBuf.read j = if j = k then some v else s.inBuf.read j) ∧
    (∀ b : Byte, s.pending = .access (.r8 (s.cfg.base + 0x10000 + k)) :: rest →
      s.inBuf.read k = some b →
      step s = .next { s with pending := rest, responses := s.responses ++ [.data8 b] })

/-- R69: an OUT byte below OUT_LEN answers the byte stored there and changes nothing else. -/
def Obligations.OutputByteRead : Prop :=
  ∀ (s : State) (rest : List Event) (k : Nat) (b : Byte),
    s.cfg.Valid → k < s.cfg.outCap → k < s.outLen.toNat → s.outBuf.read k = some b →
    s.pending = .access (.r8 (s.cfg.base + 0x20000 + k)) :: rest →
    step s = .next { s with pending := rest, responses := s.responses ++ [.data8 b] }

/-- R68 and R69, with the model's free value (log 3): a read of an undefined byte answers a fresh draw, whatever its
value, and the next such read draws anew. -/
def Obligations.UndefinedByteReadIsFresh : Prop :=
  ∀ (s : State) (rest : List Event) (k : Nat), s.cfg.Valid →
    (k < s.cfg.inCap → s.inBuf.read k = none →
      s.pending = .access (.r8 (s.cfg.base + 0x10000 + k)) :: rest →
      step s = .next { s with
        pending := rest, responses := s.responses ++ [.data8 (Config.freeByte s.draws)],
        draws := s.draws + 1 }) ∧
    (k < s.cfg.outCap → s.outLen.toNat ≤ k →
      s.pending = .access (.r8 (s.cfg.base + 0x20000 + k)) :: rest →
      step s = .next { s with
        pending := rest, responses := s.responses ++ [.data8 (Config.freeByte s.draws)],
        draws := s.draws + 1 })

/-- R65 (a) to (g): the access is answered with a bus error and nothing else changes. -/
def Obligations.BusErrorChangesNothing : Prop :=
  ∀ (s : State) (rest : List Event) (a : Access), s.pending = .access a :: rest →
    s.cfg.Addresses a.addr → busErrorCase s.cfg (a.addr - s.cfg.base) a →
    step s = .next { s with pending := rest, responses := s.responses ++ [.busError] }

/-- Derived from R64 and R65: an access of 8 or 32 bits in none of R65's cases is answered with something else than a
bus error, and one of any other width is a bus error (D2; log 9). -/
def Obligations.BusErrorOnlyWhereListed : Prop :=
  ∀ (s : State) (rest : List Event) (a : Access), s.pending = .access a :: rest →
    s.cfg.Addresses a.addr →
    ((width a = 8 ∨ width a = 32) → a.wf = true →
      ¬ busErrorCase s.cfg (a.addr - s.cfg.base) a →
      ∃ t r, step s = .next t ∧ t.responses = s.responses ++ [r] ∧ r ≠ .busError) ∧
    (width a ≠ 8 → width a ≠ 32 →
      step s = .next { s with pending := rest, responses := s.responses ++ [.busError] })

/-- R73: a read of either width changes no register, buffer byte, written-mark or notification; nor does the read
of a `copyback`, which changes only what its own host keeps (log 13). -/
def Obligations.ReadsHaveNoSideEffect : Prop :=
  (∀ (s t : State) (rest : List Event) (a : Nat),
    (s.pending = .access (.r32 a) :: rest ∨ s.pending = .access (.r8 a) :: rest) →
    step s = .next t →
    t = { s with pending := rest, responses := t.responses, draws := t.draws }) ∧
  (∀ (s t : State) (rest : List Event) (host a : Nat),
    s.pending = .copyRead host a :: rest → step s = .next t →
    t = { s with pending := rest, responses := t.responses, draws := t.draws, held := t.held } ∧
    ∀ h, h ≠ host → t.held.read h = s.held.read h)

/-! ## The machine as a whole -/

/-- R280: what reset leaves, in the state after reset and after a reset event in any state; a reset emits no
notification. -/
def Obligations.ResetLeavesZeros : Prop :=
  (resultRegs State.reset = [0, 0, 0, 0, 0, 0, 0, 0] ∧
    State.reset.srcPort = 0 ∧ State.reset.dstPort = 0 ∧ State.reset.inLen = 0 ∧
    State.reset.notes = [] ∧ ∀ k, State.reset.inBuf.written k = false) ∧
  ∀ (s : State) (rest : List Event), s.pending = .reset :: rest →
    ∃ t, step s = .next t ∧
      resultRegs t = [0, 0, 0, 0, 0, 0, 0, 0] ∧
      t.srcPort = 0 ∧ t.dstPort = 0 ∧ t.inLen = 0 ∧
      t.notes = [] ∧ ∀ k, t.inBuf.written k = false

/-- R39 and R74: a written-mark is cleared by reset only, and only a byte write to IN changes IN. -/
def Obligations.WrittenMarksOnlyGrow : Prop :=
  ∀ (s t : State) (e : Event) (rest : List Event), s.pending = e :: rest → e ≠ .reset →
    step s = .next t →
    (∀ k, s.inBuf.written k = true → t.inBuf.written k = true) ∧
    ((∀ a v, e ≠ .access (.w8 a v)) → (∀ h a, e ≠ .writeBack h a) → t.inBuf = s.inBuf)

/-- R242 and R243: outside reset the stream only grows, by legal WARN and ERROR records, and only a CMD write makes it
grow. -/
def Obligations.NotificationsOnlyAppend : Prop :=
  ∀ (s t : State) (e : Event) (rest : List Event), s.pending = e :: rest → e ≠ .reset →
    step s = .next t →
    ∃ ns, t.notes = s.notes ++ ns ∧ (∀ n ∈ ns, legalNote n) ∧
      ((∀ v, e ≠ .access (.w32 s.cfg.base v)) → ns = [])

/-- R249 and R289, with the model's one refusal (log 6): no step faults, and a step stops exactly where its access is
not to the block. -/
def Obligations.StopsOnlyOutsideTheBlock : Prop :=
  ∀ s : State,
    (∀ f, step s ≠ .fault f) ∧
    (∀ r, step s = .refused r ↔
      ∃ e rest a, s.pending = e :: rest ∧ addressOf e = some a ∧ ¬ s.cfg.Addresses a ∧
        r = .notTheBlock)

/-- The state after reset meets the invariant. -/
def Obligations.ResetMeetsInvariant : Prop := State.reset.Inv

/-- Every step keeps the invariant: legal parameters, reserved bits 0, ERR at most 7, error arguments and results
never both nonzero, canonical buffers inside their capacities, and OUT defined below OUT_LEN. -/
def Obligations.StepKeepsInvariant : Prop :=
  ∀ s t : State, s.Inv → step s = .next t → t.Inv

/-- R289 and R64, derived: a run over events that the block answers by itself never stops, takes one step per event,
and answers every access once, the two accesses of a `copyback` among them. -/
def Obligations.EveryAccessCompletes : Prop :=
  ∀ s : State, s.Answerable →
    ∃ t, runsTo s.pending.length s t ∧ t.pending = [] ∧ t.cfg = s.cfg ∧
      t.responses.length = s.responses.length + (s.pending.filter isAccess).length

/-- Derived from R101, R67, R69 and R66: a host's `copyback` copies the OUT bytes below OUT_LEN to IN and changes
nothing else but the record of answers and what that host keeps. -/
def Obligations.CopybackCopiesOutput : Prop :=
  ∀ (s : State) (host n : Nat), s.Inv → n ≤ s.outLen.toNat → n ≤ s.cfg.inCap → s.pending = [] →
    ∃ t, runsTo (2 * n) (s.withProgram host [.copyback n]) t ∧
      t = { s with inBuf := t.inBuf, responses := t.responses, held := t.held } ∧
      (∀ k, t.inBuf.read k = if k < n then s.outBuf.read k else s.inBuf.read k) ∧
      ∀ h, h ≠ host → t.held.read h = s.held.read h

/-- R101 under R75's interleavings, derived: the byte a `copyback` writes is the one its own `r8` was answered,
whatever stands between its two accesses: accesses and copy-backs of other hosts, commands, resets, and this host's
own plain accesses. -/
def Obligations.CopybackWritesItsOwnByte : Prop :=
  ∀ (s u : State) (host a k : Nat) (b : Byte) (mid rest : List Event),
    s.cfg.Valid → k < s.cfg.inCap →
    s.pending = .copyRead host a :: (mid ++ .writeBack host (s.cfg.base + 0x10000 + k) :: rest) →
    (∀ e ∈ mid, e.answerable s.cfg ∧ ∀ a', e ≠ .copyRead host a') →
    step s = .next u → u.responses = s.responses ++ [.data8 b] →
    ∃ t, runsTo (mid.length + 2) s t ∧ t.pending = rest ∧ t.inBuf.read k = some b

/-- R65 and R101, with the model's free value (log 13): a `copyback` whose read is a bus error, and so returned no
data, goes on: its write stores a free byte, whatever that is, and nothing else in the block changes. -/
def Obligations.CopybackAfterBusErrorGoesOn : Prop :=
  ∀ (s : State) (host a k : Nat) (rest : List Event),
    s.cfg.Valid → k < s.cfg.inCap → s.cfg.Addresses a →
    busErrorCase s.cfg (a - s.cfg.base) (.r8 a) →
    s.pending = .copyRead host a :: .writeBack host (s.cfg.base + 0x10000 + k) :: rest →
    ∃ t, runsTo 2 s t ∧
      t = { s with
        pending := rest, responses := s.responses ++ [.busError, .written], inBuf := t.inBuf,
        held := t.held, draws := s.draws + 1 } ∧
      ∀ j, t.inBuf.read j = if j = k then some (Config.freeByte s.draws) else s.inBuf.read j

/-- R176 through the shell, derived: a successful BUILD, its OUT taken as the input of a PARSE, gives back the ports
and the payload. -/
def Obligations.ShellRoundTrip : Prop :=
  ∀ s t u : State, exec .build s = .next t → Status.err t.status = 0 →
    u.inLen = t.outLen → t.outLen.toNat ≤ u.cfg.inCap →
    (∀ k, k < t.outLen.toNat → u.inBuf.read k = t.outBuf.read k) →
    ∃ w, exec .parse u = .next w ∧ Status.err w.status = 0 ∧
      w.resSrc = t.resSrc ∧ w.resDst = t.resDst ∧ w.resLen = t.resLen ∧ w.resCsum = t.resCsum ∧
      w.outLen = s.inLen ∧ ∀ k, k < s.inLen.toNat → w.outBuf.read k = (inputOf s)[k]?

/-- R285 (d), derived: after a successful PARSE, a CSUM over its payload gives the PARSE's RES_CSUM exactly when the
datagram's checksum field is its payload's checksum. -/
def Obligations.HostCanVerifyChecksum : Prop :=
  ∀ s t u : State, exec .parse s = .next t → Status.err t.status = 0 →
    u.inLen = t.outLen → t.outLen.toNat ≤ u.cfg.inCap →
    (∀ k, k < t.outLen.toNat → u.inBuf.read k = t.outBuf.read k) →
    ∃ w, exec .csum u = .next w ∧
      (w.resCsum = t.resCsum ↔
        beAt (inputOf s) 6 = (checksum ((inputOf s).drop 8)).toNat)
end

