-- ==== Sys2Proof/Laws/Datagram.lean ====
section
/-! SUPPORT. The codec's primitives in Nat arithmetic, the header of a byte form, and what each core operation
can answer. -/

namespace Sys2Proof.Machine

/-- The big-endian word of two bytes, as a number (R61). -/
@[simp] theorem word16_toNat (hi lo : Byte) : (word16 hi lo).toNat = 256 * hi.toNat + lo.toNat := by
  unfold word16
  have h1 := hi.isLt
  have h2 := lo.isLt
  rw [BitVec.toNat_or, BitVec.toNat_shiftLeft, BitVec.toNat_setWidth, BitVec.toNat_setWidth,
    Nat.mod_eq_of_lt (by omega : hi.toNat < 2 ^ 16), Nat.mod_eq_of_lt (by omega : lo.toNat < 2 ^ 16),
    Nat.shiftLeft_eq, Nat.mod_eq_of_lt (by omega), Nat.mul_comm,
    show (2 : Nat) ^ 8 * hi.toNat = 2 ^ 8 * hi.toNat from rfl, ← Nat.two_pow_add_eq_or_of_lt h2]

/-- Unpacking what was packed (R124). -/
@[simp] theorem word16_pack (v : Half) : word16 (v.extractLsb' 8 8) (v.extractLsb' 0 8) = v := by
  apply BitVec.eq_of_toNat_eq
  have h := v.isLt
  simp only [word16_toNat, BitVec.extractLsb'_toNat, Nat.shiftRight_eq_div_pow]
  omega

/-- The byte form: eight header bytes and the payload (R174). -/
theorem wireForm_eq (src dst len csum : Half) (data : Bytes) :
    wireForm src dst len csum data =
      src.extractLsb' 8 8 :: src.extractLsb' 0 8 :: dst.extractLsb' 8 8 :: dst.extractLsb' 0 8 ::
      len.extractLsb' 8 8 :: len.extractLsb' 0 8 :: csum.extractLsb' 8 8 :: csum.extractLsb' 0 8 ::
      data := rfl

/-- Decoding a byte form checks exactly the fields it was made of. -/
theorem parseDatagram_wireForm (src dst len csum : Half) (data : Bytes) :
    parseDatagram (wireForm src dst len csum data) =
      checkFields (8 + data.length)
        { sourcePort := src, destinationPort := dst, length := len, checksum := csum, data := data } := by
  simp only [wireForm_eq, parseDatagram, word16_pack, List.length_cons]
  congr 1
  omega

/-- The length field of an accepted payload does not wrap (R173). -/
theorem lengthField_toNat {data : Bytes} (h : data.length ≤ Config.maxPayload) :
    (lengthField data).toNat = 8 + data.length := by
  unfold Config.maxPayload at h
  simp only [lengthField, BitVec.toNat_ofNat]
  omega

/-- Every sequence of eight bytes or more is a header's fields and a payload. -/
theorem exists_header {b : Bytes} (h : 8 ≤ b.length) :
    ∃ s0 s1 d0 d1 l0 l1 c0 c1 data, b = s0 :: s1 :: d0 :: d1 :: l0 :: l1 :: c0 :: c1 :: data := by
  match b, h with
  | s0 :: s1 :: d0 :: d1 :: l0 :: l1 :: c0 :: c1 :: data, _ =>
    exact ⟨s0, s1, d0, d1, l0, l1, c0, c1, data, rfl⟩

/-- A sequence shorter than a header is TRUNCATED_HEADER (R201). -/
theorem parseDatagram_short {b : Bytes} (h : b.length < 8) :
    parseDatagram b = fatal [] .truncatedHeader (lengthArg b.length) 0 := by
  unfold parseDatagram
  split
  · simp only [List.length_cons] at h
    omega
  · rfl

/-- R203's warnings, in order: CHECKSUM_ZERO, then SRC_PORT_ZERO. -/
def fieldWarnings (g : Datagram) : List Notification :=
  (if g.checksum = 0 then [warning .checksumZero] else []) ++
  (if g.sourcePort = 0 then [warning .srcPortZero] else [])

/-- Check 1 of R203 fails. -/
theorem checkFields_mismatch {n : Nat} {g : Datagram} (h : n ≠ g.length.toNat) :
    checkFields n g = fatal [] .lengthMismatch (g.length.setWidth 32) (lengthArg n) := if_pos h

/-- Check 1 passes and check 4 fails: the warnings stay. -/
theorem checkFields_noPort {n : Nat} {g : Datagram} (h : n = g.length.toNat)
    (hd : g.destinationPort = 0) :
    checkFields n g = fatal (fieldWarnings g) .invalidDstPort 0 0 := by
  rw [checkFields, if_neg (not_not_intro h), if_pos hd]
  rfl

/-- Both fatal checks of R203 pass. -/
theorem checkFields_pass {n : Nat} {g : Datagram} (h : n = g.length.toNat)
    (hd : g.destinationPort ≠ 0) :
    checkFields n g = { notes := fieldWarnings g, result := .ok g } := by
  rw [checkFields, if_neg (not_not_intro h), if_neg hd]
  rfl

/-- What `checkFields` can answer: an error preceded by its notification, or its argument unchanged. -/
theorem checkFields_ok {n : Nat} {g r : Datagram} (h : (checkFields n g).result = .ok r) :
    r = g ∧ n = g.length.toNat ∧ g.destinationPort ≠ 0 := by
  unfold checkFields at h
  split at h
  · simp [fatal] at h
  · rename_i hn
    simp only at h
    split at h
    · simp [fatal] at h
    · rename_i hd
      exact ⟨(CoreResult.ok.inj h).symm, by simpa using hn, hd⟩

/-- The two warnings of R241. -/
def isWarning (n : Notification) : Prop := n = warning .srcPortZero ∨ n = warning .checksumZero

/-- What a core operation produced: an error, with its notification last and warnings before it (R244), or
a result, with warnings only. -/
inductive Emission.Shape {α : Type} (e : Emission α) : Prop where
  | error (ws : List Notification) (c : Code) (a0 a1 : Word) (h : e = fatal ws c a0 a1)
      (hw : ∀ n ∈ ws, isWarning n) (hlo : 1 ≤ c.num.toNat) (hhi : c.num.toNat ≤ 5)
  | ok (ns : List Notification) (r : α) (h : e = ⟨ns, .ok r⟩) (hw : ∀ n ∈ ns, isWarning n)

theorem fieldWarnings_isWarning (g : Datagram) : ∀ n ∈ fieldWarnings g, isWarning n := by
  intro n hn
  rcases List.mem_append.1 hn with hn | hn <;> split at hn <;> simp_all [isWarning]

theorem buildDatagram_shape (src dst : Half) (data : Bytes) :
    (buildDatagram src dst data).Shape := by
  unfold buildDatagram
  split
  · exact .error [] _ _ _ rfl (by simp) (by decide) (by decide)
  · split
    · exact .error [] _ _ _ rfl (by simp) (by decide) (by decide)
    · split
      · exact .error [] _ _ _ rfl (by simp) (by decide) (by decide)
      · refine .ok _ _ rfl ?_
        split <;> simp [isWarning]

theorem checkFields_shape (n : Nat) (g : Datagram) : (checkFields n g).Shape := by
  by_cases h : n = g.length.toNat
  · by_cases hd : g.destinationPort = 0
    · exact .error _ _ _ _ (checkFields_noPort h hd) (fieldWarnings_isWarning g) (by decide) (by decide)
    · exact .ok _ _ (checkFields_pass h hd) (fieldWarnings_isWarning g)
  · exact .error [] _ _ _ (checkFields_mismatch h) (by simp) (by decide) (by decide)

theorem parseDatagram_shape (b : Bytes) : (parseDatagram b).Shape := by
  unfold parseDatagram
  split
  · exact checkFields_shape _ _
  · exact .error [] _ _ _ rfl (by simp) (by decide) (by decide)

/-- A successful encode: its checks passed, and its result is the byte form (R170, R174). -/
theorem buildDatagram_ok {src dst : Half} {data b : Bytes} {ns : List Notification}
    (h : buildDatagram src dst data = ⟨ns, .ok b⟩) :
    dst ≠ 0 ∧ 1 ≤ data.length ∧ data.length ≤ Config.maxPayload ∧
      b = wireForm src dst (lengthField data) (checksum data) data := by
  unfold buildDatagram at h
  split at h
  · simp [fatal] at h
  · split at h
    · simp [fatal] at h
    · split at h
      · simp [fatal] at h
      · simp only [Emission.mk.injEq, CoreResult.ok.injEq] at h
        exact ⟨by assumption, by omega, by omega, h.2.symm⟩

/-- A successful decode: the length agrees and the payload is the rest (R207). -/
theorem parseDatagram_ok {b : Bytes} {g : Datagram} {ns : List Notification}
    (h : parseDatagram b = ⟨ns, .ok g⟩) :
    b.length = 8 + g.data.length ∧ b.length = g.length.toNat ∧ g.destinationPort ≠ 0 := by
  unfold parseDatagram at h
  split at h
  · obtain ⟨rfl, hn, hd⟩ := checkFields_ok (congrArg Emission.result h)
    refine ⟨?_, hn, hd⟩
    simp only [List.length_cons]
    omega
  · simp [fatal] at h

end Sys2Proof.Machine
end

