-- ==== Sys2Proof/Laws/Checksum.lean ====
section
/-! SUPPORT. Carry-around addition in Nat arithmetic and its laws (41_checksum.md R140). -/

namespace Sys2Proof.Machine

/-- R140 without truncation: one fold suffices. -/
theorem csumAdd_toNat (s w : Half) :
    (csumAdd s w).toNat =
      if s.toNat + w.toNat > 0xFFFF then s.toNat + w.toNat - 0xFFFF else s.toNat + w.toNat := by
  have hs := s.isLt
  have hw := w.isLt
  have ht : (s.setWidth 32 + w.setWidth 32 : Word).toNat = s.toNat + w.toNat := by
    simp only [BitVec.toNat_add, BitVec.toNat_setWidth]
    omega
  unfold csumAdd
  generalize (s.setWidth 32 + w.setWidth 32 : Word) = t at ht
  have hlt : t > 0xFFFF ↔ s.toNat + w.toNat > 0xFFFF := by
    rw [gt_iff_lt, BitVec.lt_def, ht]
    rfl
  simp only [hlt]
  split <;>
    simp only [BitVec.extractLsb'_toNat, BitVec.toNat_add, BitVec.toNat_setWidth,
      BitVec.toNat_ushiftRight, Nat.shiftRight_eq_div_pow, ht, Nat.pow_zero, Nat.div_one] <;>
    omega

@[simp] theorem zero_csumAdd (w : Half) : csumAdd 0 w = w := by
  apply BitVec.eq_of_toNat_eq
  have := w.isLt
  rw [csumAdd_toNat]
  simp
  omega

/-- The walk over a list of pairs continues over what follows (R145). -/
theorem sumWords_cons_cons (s : Half) (hi lo : Byte) (rest : Bytes) :
    sumWords s (hi :: lo :: rest) = sumWords (csumAdd s (word16 hi lo)) rest := rfl

end Sys2Proof.Machine
end

