-- ==== Sys2Proof/Laws/Memory.lean ====
section
/-! SUPPORT. What the memory operations of Machine/Ops.lean do: read after write, the canonical form and the
capacity kept by every write, and the snapshot's length and bytes. -/

namespace Sys2Proof.Machine.Memory

variable (m : Memory) (k j d : Nat) (b : Byte)

@[simp] theorem read_nil : Memory.read k [] = none := rfl

@[simp] theorem writeFrom_nil : writeFrom k [] m = m := rfl

@[simp] theorem writeFrom_cons (bs : Bytes) :
    writeFrom k (b :: bs) m = writeFrom (k + 1) bs (write k b m) := rfl

/-- A byte that is listed is listed under its index. -/
theorem mem_of_read {m : Memory} {k : Nat} {b : Byte} (h : Memory.read k m = some b) : (k, b) ∈ m := by
  induction m with
  | nil => simp at h
  | cons c rest ih =>
    obtain ⟨i, x⟩ := c
    unfold Memory.read at h
    split at h
    · simp_all
    · exact List.mem_cons_of_mem _ (ih h)

/-- An index below every listed one has no value. -/
theorem read_none_of_lt {m : Memory} {k : Nat} (h : ∀ c ∈ m, k < c.1) : Memory.read k m = none := by
  cases hr : Memory.read k m with
  | none => rfl
  | some b => exact absurd (h _ (mem_of_read hr)) (Nat.lt_irrefl _)

/-- A read after a write to the same index gives the byte written. -/
@[simp] theorem read_write_same : Memory.read k (write k b m) = some b := by
  induction m with
  | nil => simp [write, Memory.read]
  | cons c rest ih =>
    obtain ⟨i, x⟩ := c
    unfold write
    split
    · simp [Memory.read]
    · split
      · simp [Memory.read]
      · rw [Memory.read, if_neg (by omega), ih]

/-- A write leaves every other index as it was; the canonical form is not needed. -/
theorem read_write_other {k j : Nat} (h : j ≠ k) : Memory.read j (write k b m) = Memory.read j m := by
  induction m with
  | nil => simp [write, Memory.read, h.symm]
  | cons c rest ih =>
    obtain ⟨i, x⟩ := c
    unfold write
    split
    · rw [Memory.read, if_neg h.symm]
    · split
      · rename_i hki
        subst hki
        simp [Memory.read, h.symm]
      · rw [Memory.read, Memory.read, ih]

/-- An index listed after a write was listed before it, or is the one written. -/
theorem mem_write {m : Memory} {c : Host.Cell} (h : c ∈ write k b m) : c = (k, b) ∨ c ∈ m := by
  induction m with
  | nil => simpa [write] using h
  | cons e rest ih =>
    obtain ⟨i, x⟩ := e
    unfold write at h
    split at h
    · simpa using h
    · split at h
      · rcases List.mem_cons.1 h with h | h
        · exact .inl h
        · exact .inr (List.mem_cons_of_mem _ h)
      · rcases List.mem_cons.1 h with h | h
        · exact .inr (h ▸ List.mem_cons_self ..)
        · exact (ih h).imp_right (List.mem_cons_of_mem _)

/-- A write keeps the canonical form. -/
theorem write_wf {m : Memory} (h : m.wf) : (write k b m).wf := by
  induction m with
  | nil => simp [write, Memory.wf]
  | cons c rest ih =>
    obtain ⟨i, x⟩ := c
    have hc := List.pairwise_cons.1 h
    unfold write
    split
    · rename_i hki
      exact List.pairwise_cons.2 ⟨fun e he => by
        rcases List.mem_cons.1 he with rfl | he
        · exact hki
        · exact Nat.lt_trans hki (hc.1 e he), h⟩
    · split
      · rename_i hki
        exact List.pairwise_cons.2 ⟨fun e he => by simpa [hki] using hc.1 e he, hc.2⟩
      · refine List.pairwise_cons.2 ⟨fun e he => ?_, ih hc.2⟩
        rcases mem_write _ _ he with rfl | he
        · show i < k
          omega
        · exact hc.1 e he

/-- A write below the capacity keeps every index below it. -/
theorem write_within {m : Memory} {cap : Nat} (h : m.within cap) (hk : k < cap) :
    (write k b m).within cap := by
  intro c hc
  rcases mem_write _ _ hc with rfl | hc
  · exact hk
  · exact h c hc

theorem writeFrom_wf {m : Memory} (bs : Bytes) (h : m.wf) : (writeFrom k bs m).wf := by
  induction bs generalizing k m with
  | nil => exact h
  | cons b bs ih => exact ih (k + 1) (write_wf k b h)

theorem writeFrom_within {m : Memory} {cap : Nat} (bs : Bytes) (h : m.within cap)
    (hk : k + bs.length ≤ cap) : (writeFrom k bs m).within cap := by
  induction bs generalizing k m with
  | nil => exact h
  | cons b bs ih =>
    simp only [List.length_cons] at hk
    exact ih (k + 1) (write_within k b h (by omega)) (by omega)

/-- What is read after consecutive writes: the bytes written where they were, the old byte elsewhere. -/
theorem read_writeFrom (bs : Bytes) :
    Memory.read j (writeFrom k bs m) =
      if k ≤ j ∧ j < k + bs.length then bs[j - k]? else Memory.read j m := by
  induction bs generalizing k m with
  | nil => rw [if_neg (by simp)]; rfl
  | cons b bs ih =>
    rw [writeFrom_cons, ih, List.length_cons]
    by_cases hj : j = k
    · subst hj
      rw [if_neg (by omega), if_pos (by omega), read_write_same]
      simp
    · rw [read_write_other _ _ hj]
      by_cases hin : k + 1 ≤ j ∧ j < k + 1 + bs.length
      · rw [if_pos hin, if_pos (by omega), show j - k = (j - (k + 1)) + 1 by omega]
        rfl
      · rw [if_neg hin, if_neg (by omega)]

/-- A read of a byte that has a value draws nothing. -/
theorem readOrDraw_some {m : Memory} {k : Nat} {b : Byte} (h : Memory.read k m = some b) :
    m.readOrDraw k d = (b, d) := by
  simp [readOrDraw, h]

/-- A read of a byte that has no value is the next free value. -/
theorem readOrDraw_none {m : Memory} {k : Nat} (h : Memory.read k m = none) :
    m.readOrDraw k d = (Config.freeByte d, d + 1) := by
  simp [readOrDraw, h]

/-- The snapshot of `n` bytes has `n` bytes. -/
@[simp] theorem takeBytes_length (n : Nat) : (m.takeBytes n k d).1.length = n := by
  induction n generalizing k d with
  | zero => rfl
  | succ n ih => simp [takeBytes, ih]

/-- A snapshot of bytes that all have values holds them and draws nothing. -/
theorem takeBytes_written (n : Nat) (h : ∀ i, k ≤ i → i < k + n → m.written i = true) :
    (m.takeBytes n k d).2 = d ∧
      ∀ i, i < n → (m.takeBytes n k d).1[i]? = Memory.read (k + i) m := by
  induction n generalizing k with
  | zero => exact ⟨rfl, fun i hi => absurd hi (Nat.not_lt_zero _)⟩
  | succ n ih =>
    obtain ⟨b, hb⟩ := Option.isSome_iff_exists.1 (h k (Nat.le_refl _) (by omega))
    obtain ⟨hd, hi⟩ := ih (k + 1) fun i h1 h2 => h i (by omega) (by omega)
    simp only [takeBytes, readOrDraw_some d hb]
    refine ⟨hd, fun i hlt => ?_⟩
    cases i with
    | zero => simpa using hb.symm
    | succ i => rw [List.getElem?_cons_succ, hi i (by omega), show k + 1 + i = k + (i + 1) by omega]

/-- The draws after a snapshot are at least those before it. -/
theorem le_takeBytes_draws (n : Nat) : d ≤ (m.takeBytes n k d).2 := by
  induction n generalizing k d with
  | zero => exact Nat.le_refl _
  | succ n ih =>
    refine Nat.le_trans ?_ (ih _ _)
    unfold readOrDraw
    split
    · exact Nat.le_refl _
    · exact Nat.le_succ _

/-- Nothing is listed at an erased index. -/
@[simp] theorem read_erase_same : Memory.read k (erase k m) = none := by
  cases hr : Memory.read k (erase k m) with
  | none => rfl
  | some b =>
    have := (List.mem_filter.1 (mem_of_read hr)).2
    simp at this

/-- Erasing leaves every other index as it was. -/
theorem read_erase_other {k j : Nat} (h : j ≠ k) : Memory.read j (erase k m) = Memory.read j m := by
  unfold erase
  induction m with
  | nil => rfl
  | cons c rest ih =>
    obtain ⟨i, x⟩ := c
    by_cases hi : i = k
    · subst hi
      simp [Memory.read, h.symm, ih]
    · simp [Memory.read, hi, ih]

/-- Erasing keeps the canonical form. -/
theorem erase_wf {m : Memory} (h : m.wf) : (erase k m).wf := List.Pairwise.filter _ h

end Sys2Proof.Machine.Memory
end

