-- ==== Sys2Proof/Laws/State.lean ====
section
/-! SUPPORT. One lemma per field per named update of the state (Machine/Ops.lean), so that no proof
unfolds a record update. -/

namespace Sys2Proof.Machine.State

section
variable (v : Word) (s : State)

@[simp] theorem setStatus_cfg : (setStatus v s).cfg = s.cfg := rfl
@[simp] theorem setStatus_status : (setStatus v s).status = v := rfl
@[simp] theorem setStatus_srcPort : (setStatus v s).srcPort = s.srcPort := rfl
@[simp] theorem setStatus_dstPort : (setStatus v s).dstPort = s.dstPort := rfl
@[simp] theorem setStatus_inLen : (setStatus v s).inLen = s.inLen := rfl
@[simp] theorem setStatus_resSrc : (setStatus v s).resSrc = s.resSrc := rfl
@[simp] theorem setStatus_resDst : (setStatus v s).resDst = s.resDst := rfl
@[simp] theorem setStatus_resLen : (setStatus v s).resLen = s.resLen := rfl
@[simp] theorem setStatus_resCsum : (setStatus v s).resCsum = s.resCsum := rfl
@[simp] theorem setStatus_outLen : (setStatus v s).outLen = s.outLen := rfl
@[simp] theorem setStatus_errArg0 : (setStatus v s).errArg0 = s.errArg0 := rfl
@[simp] theorem setStatus_errArg1 : (setStatus v s).errArg1 = s.errArg1 := rfl
@[simp] theorem setStatus_inBuf : (setStatus v s).inBuf = s.inBuf := rfl
@[simp] theorem setStatus_outBuf : (setStatus v s).outBuf = s.outBuf := rfl
@[simp] theorem setStatus_notes : (setStatus v s).notes = s.notes := rfl
@[simp] theorem setStatus_draws : (setStatus v s).draws = s.draws := rfl
@[simp] theorem setStatus_pending : (setStatus v s).pending = s.pending := rfl
@[simp] theorem setStatus_responses : (setStatus v s).responses = s.responses := rfl
@[simp] theorem setStatus_held : (setStatus v s).held = s.held := rfl

end

section
variable (a0 a1 : Word) (s : State)

@[simp] theorem setErrArgs_cfg : (setErrArgs a0 a1 s).cfg = s.cfg := rfl
@[simp] theorem setErrArgs_status : (setErrArgs a0 a1 s).status = s.status := rfl
@[simp] theorem setErrArgs_srcPort : (setErrArgs a0 a1 s).srcPort = s.srcPort := rfl
@[simp] theorem setErrArgs_dstPort : (setErrArgs a0 a1 s).dstPort = s.dstPort := rfl
@[simp] theorem setErrArgs_inLen : (setErrArgs a0 a1 s).inLen = s.inLen := rfl
@[simp] theorem setErrArgs_resSrc : (setErrArgs a0 a1 s).resSrc = s.resSrc := rfl
@[simp] theorem setErrArgs_resDst : (setErrArgs a0 a1 s).resDst = s.resDst := rfl
@[simp] theorem setErrArgs_resLen : (setErrArgs a0 a1 s).resLen = s.resLen := rfl
@[simp] theorem setErrArgs_resCsum : (setErrArgs a0 a1 s).resCsum = s.resCsum := rfl
@[simp] theorem setErrArgs_outLen : (setErrArgs a0 a1 s).outLen = s.outLen := rfl
@[simp] theorem setErrArgs_errArg0 : (setErrArgs a0 a1 s).errArg0 = a0 := rfl
@[simp] theorem setErrArgs_errArg1 : (setErrArgs a0 a1 s).errArg1 = a1 := rfl
@[simp] theorem setErrArgs_inBuf : (setErrArgs a0 a1 s).inBuf = s.inBuf := rfl
@[simp] theorem setErrArgs_outBuf : (setErrArgs a0 a1 s).outBuf = s.outBuf := rfl
@[simp] theorem setErrArgs_notes : (setErrArgs a0 a1 s).notes = s.notes := rfl
@[simp] theorem setErrArgs_draws : (setErrArgs a0 a1 s).draws = s.draws := rfl
@[simp] theorem setErrArgs_pending : (setErrArgs a0 a1 s).pending = s.pending := rfl
@[simp] theorem setErrArgs_responses : (setErrArgs a0 a1 s).responses = s.responses := rfl
@[simp] theorem setErrArgs_held : (setErrArgs a0 a1 s).held = s.held := rfl

end

section
variable (src dst len csum : Word) (s : State)

@[simp] theorem setResults_cfg : (setResults src dst len csum s).cfg = s.cfg := rfl
@[simp] theorem setResults_status : (setResults src dst len csum s).status = s.status := rfl
@[simp] theorem setResults_srcPort : (setResults src dst len csum s).srcPort = s.srcPort := rfl
@[simp] theorem setResults_dstPort : (setResults src dst len csum s).dstPort = s.dstPort := rfl
@[simp] theorem setResults_inLen : (setResults src dst len csum s).inLen = s.inLen := rfl
@[simp] theorem setResults_resSrc : (setResults src dst len csum s).resSrc = src := rfl
@[simp] theorem setResults_resDst : (setResults src dst len csum s).resDst = dst := rfl
@[simp] theorem setResults_resLen : (setResults src dst len csum s).resLen = len := rfl
@[simp] theorem setResults_resCsum : (setResults src dst len csum s).resCsum = csum := rfl
@[simp] theorem setResults_outLen : (setResults src dst len csum s).outLen = s.outLen := rfl
@[simp] theorem setResults_errArg0 : (setResults src dst len csum s).errArg0 = s.errArg0 := rfl
@[simp] theorem setResults_errArg1 : (setResults src dst len csum s).errArg1 = s.errArg1 := rfl
@[simp] theorem setResults_inBuf : (setResults src dst len csum s).inBuf = s.inBuf := rfl
@[simp] theorem setResults_outBuf : (setResults src dst len csum s).outBuf = s.outBuf := rfl
@[simp] theorem setResults_notes : (setResults src dst len csum s).notes = s.notes := rfl
@[simp] theorem setResults_draws : (setResults src dst len csum s).draws = s.draws := rfl
@[simp] theorem setResults_pending : (setResults src dst len csum s).pending = s.pending := rfl
@[simp] theorem setResults_responses : (setResults src dst len csum s).responses = s.responses := rfl
@[simp] theorem setResults_held : (setResults src dst len csum s).held = s.held := rfl

end

section
variable (v : Word) (s : State)

@[simp] theorem setOutLen_cfg : (setOutLen v s).cfg = s.cfg := rfl
@[simp] theorem setOutLen_status : (setOutLen v s).status = s.status := rfl
@[simp] theorem setOutLen_srcPort : (setOutLen v s).srcPort = s.srcPort := rfl
@[simp] theorem setOutLen_dstPort : (setOutLen v s).dstPort = s.dstPort := rfl
@[simp] theorem setOutLen_inLen : (setOutLen v s).inLen = s.inLen := rfl
@[simp] theorem setOutLen_resSrc : (setOutLen v s).resSrc = s.resSrc := rfl
@[simp] theorem setOutLen_resDst : (setOutLen v s).resDst = s.resDst := rfl
@[simp] theorem setOutLen_resLen : (setOutLen v s).resLen = s.resLen := rfl
@[simp] theorem setOutLen_resCsum : (setOutLen v s).resCsum = s.resCsum := rfl
@[simp] theorem setOutLen_outLen : (setOutLen v s).outLen = v := rfl
@[simp] theorem setOutLen_errArg0 : (setOutLen v s).errArg0 = s.errArg0 := rfl
@[simp] theorem setOutLen_errArg1 : (setOutLen v s).errArg1 = s.errArg1 := rfl
@[simp] theorem setOutLen_inBuf : (setOutLen v s).inBuf = s.inBuf := rfl
@[simp] theorem setOutLen_outBuf : (setOutLen v s).outBuf = s.outBuf := rfl
@[simp] theorem setOutLen_notes : (setOutLen v s).notes = s.notes := rfl
@[simp] theorem setOutLen_draws : (setOutLen v s).draws = s.draws := rfl
@[simp] theorem setOutLen_pending : (setOutLen v s).pending = s.pending := rfl
@[simp] theorem setOutLen_responses : (setOutLen v s).responses = s.responses := rfl
@[simp] theorem setOutLen_held : (setOutLen v s).held = s.held := rfl

end

section
variable (v : Word) (s : State)

@[simp] theorem setSrcPort_cfg : (setSrcPort v s).cfg = s.cfg := rfl
@[simp] theorem setSrcPort_status : (setSrcPort v s).status = s.status := rfl
@[simp] theorem setSrcPort_srcPort : (setSrcPort v s).srcPort = v := rfl
@[simp] theorem setSrcPort_dstPort : (setSrcPort v s).dstPort = s.dstPort := rfl
@[simp] theorem setSrcPort_inLen : (setSrcPort v s).inLen = s.inLen := rfl
@[simp] theorem setSrcPort_resSrc : (setSrcPort v s).resSrc = s.resSrc := rfl
@[simp] theorem setSrcPort_resDst : (setSrcPort v s).resDst = s.resDst := rfl
@[simp] theorem setSrcPort_resLen : (setSrcPort v s).resLen = s.resLen := rfl
@[simp] theorem setSrcPort_resCsum : (setSrcPort v s).resCsum = s.resCsum := rfl
@[simp] theorem setSrcPort_outLen : (setSrcPort v s).outLen = s.outLen := rfl
@[simp] theorem setSrcPort_errArg0 : (setSrcPort v s).errArg0 = s.errArg0 := rfl
@[simp] theorem setSrcPort_errArg1 : (setSrcPort v s).errArg1 = s.errArg1 := rfl
@[simp] theorem setSrcPort_inBuf : (setSrcPort v s).inBuf = s.inBuf := rfl
@[simp] theorem setSrcPort_outBuf : (setSrcPort v s).outBuf = s.outBuf := rfl
@[simp] theorem setSrcPort_notes : (setSrcPort v s).notes = s.notes := rfl
@[simp] theorem setSrcPort_draws : (setSrcPort v s).draws = s.draws := rfl
@[simp] theorem setSrcPort_pending : (setSrcPort v s).pending = s.pending := rfl
@[simp] theorem setSrcPort_responses : (setSrcPort v s).responses = s.responses := rfl
@[simp] theorem setSrcPort_held : (setSrcPort v s).held = s.held := rfl

end

section
variable (v : Word) (s : State)

@[simp] theorem setDstPort_cfg : (setDstPort v s).cfg = s.cfg := rfl
@[simp] theorem setDstPort_status : (setDstPort v s).status = s.status := rfl
@[simp] theorem setDstPort_srcPort : (setDstPort v s).srcPort = s.srcPort := rfl
@[simp] theorem setDstPort_dstPort : (setDstPort v s).dstPort = v := rfl
@[simp] theorem setDstPort_inLen : (setDstPort v s).inLen = s.inLen := rfl
@[simp] theorem setDstPort_resSrc : (setDstPort v s).resSrc = s.resSrc := rfl
@[simp] theorem setDstPort_resDst : (setDstPort v s).resDst = s.resDst := rfl
@[simp] theorem setDstPort_resLen : (setDstPort v s).resLen = s.resLen := rfl
@[simp] theorem setDstPort_resCsum : (setDstPort v s).resCsum = s.resCsum := rfl
@[simp] theorem setDstPort_outLen : (setDstPort v s).outLen = s.outLen := rfl
@[simp] theorem setDstPort_errArg0 : (setDstPort v s).errArg0 = s.errArg0 := rfl
@[simp] theorem setDstPort_errArg1 : (setDstPort v s).errArg1 = s.errArg1 := rfl
@[simp] theorem setDstPort_inBuf : (setDstPort v s).inBuf = s.inBuf := rfl
@[simp] theorem setDstPort_outBuf : (setDstPort v s).outBuf = s.outBuf := rfl
@[simp] theorem setDstPort_notes : (setDstPort v s).notes = s.notes := rfl
@[simp] theorem setDstPort_draws : (setDstPort v s).draws = s.draws := rfl
@[simp] theorem setDstPort_pending : (setDstPort v s).pending = s.pending := rfl
@[simp] theorem setDstPort_responses : (setDstPort v s).responses = s.responses := rfl
@[simp] theorem setDstPort_held : (setDstPort v s).held = s.held := rfl

end

section
variable (v : Word) (s : State)

@[simp] theorem setInLen_cfg : (setInLen v s).cfg = s.cfg := rfl
@[simp] theorem setInLen_status : (setInLen v s).status = s.status := rfl
@[simp] theorem setInLen_srcPort : (setInLen v s).srcPort = s.srcPort := rfl
@[simp] theorem setInLen_dstPort : (setInLen v s).dstPort = s.dstPort := rfl
@[simp] theorem setInLen_inLen : (setInLen v s).inLen = v := rfl
@[simp] theorem setInLen_resSrc : (setInLen v s).resSrc = s.resSrc := rfl
@[simp] theorem setInLen_resDst : (setInLen v s).resDst = s.resDst := rfl
@[simp] theorem setInLen_resLen : (setInLen v s).resLen = s.resLen := rfl
@[simp] theorem setInLen_resCsum : (setInLen v s).resCsum = s.resCsum := rfl
@[simp] theorem setInLen_outLen : (setInLen v s).outLen = s.outLen := rfl
@[simp] theorem setInLen_errArg0 : (setInLen v s).errArg0 = s.errArg0 := rfl
@[simp] theorem setInLen_errArg1 : (setInLen v s).errArg1 = s.errArg1 := rfl
@[simp] theorem setInLen_inBuf : (setInLen v s).inBuf = s.inBuf := rfl
@[simp] theorem setInLen_outBuf : (setInLen v s).outBuf = s.outBuf := rfl
@[simp] theorem setInLen_notes : (setInLen v s).notes = s.notes := rfl
@[simp] theorem setInLen_draws : (setInLen v s).draws = s.draws := rfl
@[simp] theorem setInLen_pending : (setInLen v s).pending = s.pending := rfl
@[simp] theorem setInLen_responses : (setInLen v s).responses = s.responses := rfl
@[simp] theorem setInLen_held : (setInLen v s).held = s.held := rfl

end

section
variable (m : Memory) (s : State)

@[simp] theorem setInBuf_cfg : (setInBuf m s).cfg = s.cfg := rfl
@[simp] theorem setInBuf_status : (setInBuf m s).status = s.status := rfl
@[simp] theorem setInBuf_srcPort : (setInBuf m s).srcPort = s.srcPort := rfl
@[simp] theorem setInBuf_dstPort : (setInBuf m s).dstPort = s.dstPort := rfl
@[simp] theorem setInBuf_inLen : (setInBuf m s).inLen = s.inLen := rfl
@[simp] theorem setInBuf_resSrc : (setInBuf m s).resSrc = s.resSrc := rfl
@[simp] theorem setInBuf_resDst : (setInBuf m s).resDst = s.resDst := rfl
@[simp] theorem setInBuf_resLen : (setInBuf m s).resLen = s.resLen := rfl
@[simp] theorem setInBuf_resCsum : (setInBuf m s).resCsum = s.resCsum := rfl
@[simp] theorem setInBuf_outLen : (setInBuf m s).outLen = s.outLen := rfl
@[simp] theorem setInBuf_errArg0 : (setInBuf m s).errArg0 = s.errArg0 := rfl
@[simp] theorem setInBuf_errArg1 : (setInBuf m s).errArg1 = s.errArg1 := rfl
@[simp] theorem setInBuf_inBuf : (setInBuf m s).inBuf = m := rfl
@[simp] theorem setInBuf_outBuf : (setInBuf m s).outBuf = s.outBuf := rfl
@[simp] theorem setInBuf_notes : (setInBuf m s).notes = s.notes := rfl
@[simp] theorem setInBuf_draws : (setInBuf m s).draws = s.draws := rfl
@[simp] theorem setInBuf_pending : (setInBuf m s).pending = s.pending := rfl
@[simp] theorem setInBuf_responses : (setInBuf m s).responses = s.responses := rfl
@[simp] theorem setInBuf_held : (setInBuf m s).held = s.held := rfl

end

section
variable (m : Memory) (s : State)

@[simp] theorem setOutBuf_cfg : (setOutBuf m s).cfg = s.cfg := rfl
@[simp] theorem setOutBuf_status : (setOutBuf m s).status = s.status := rfl
@[simp] theorem setOutBuf_srcPort : (setOutBuf m s).srcPort = s.srcPort := rfl
@[simp] theorem setOutBuf_dstPort : (setOutBuf m s).dstPort = s.dstPort := rfl
@[simp] theorem setOutBuf_inLen : (setOutBuf m s).inLen = s.inLen := rfl
@[simp] theorem setOutBuf_resSrc : (setOutBuf m s).resSrc = s.resSrc := rfl
@[simp] theorem setOutBuf_resDst : (setOutBuf m s).resDst = s.resDst := rfl
@[simp] theorem setOutBuf_resLen : (setOutBuf m s).resLen = s.resLen := rfl
@[simp] theorem setOutBuf_resCsum : (setOutBuf m s).resCsum = s.resCsum := rfl
@[simp] theorem setOutBuf_outLen : (setOutBuf m s).outLen = s.outLen := rfl
@[simp] theorem setOutBuf_errArg0 : (setOutBuf m s).errArg0 = s.errArg0 := rfl
@[simp] theorem setOutBuf_errArg1 : (setOutBuf m s).errArg1 = s.errArg1 := rfl
@[simp] theorem setOutBuf_inBuf : (setOutBuf m s).inBuf = s.inBuf := rfl
@[simp] theorem setOutBuf_outBuf : (setOutBuf m s).outBuf = m := rfl
@[simp] theorem setOutBuf_notes : (setOutBuf m s).notes = s.notes := rfl
@[simp] theorem setOutBuf_draws : (setOutBuf m s).draws = s.draws := rfl
@[simp] theorem setOutBuf_pending : (setOutBuf m s).pending = s.pending := rfl
@[simp] theorem setOutBuf_responses : (setOutBuf m s).responses = s.responses := rfl
@[simp] theorem setOutBuf_held : (setOutBuf m s).held = s.held := rfl

end

section
variable (ns : List Notification) (s : State)

@[simp] theorem setNotes_cfg : (setNotes ns s).cfg = s.cfg := rfl
@[simp] theorem setNotes_status : (setNotes ns s).status = s.status := rfl
@[simp] theorem setNotes_srcPort : (setNotes ns s).srcPort = s.srcPort := rfl
@[simp] theorem setNotes_dstPort : (setNotes ns s).dstPort = s.dstPort := rfl
@[simp] theorem setNotes_inLen : (setNotes ns s).inLen = s.inLen := rfl
@[simp] theorem setNotes_resSrc : (setNotes ns s).resSrc = s.resSrc := rfl
@[simp] theorem setNotes_resDst : (setNotes ns s).resDst = s.resDst := rfl
@[simp] theorem setNotes_resLen : (setNotes ns s).resLen = s.resLen := rfl
@[simp] theorem setNotes_resCsum : (setNotes ns s).resCsum = s.resCsum := rfl
@[simp] theorem setNotes_outLen : (setNotes ns s).outLen = s.outLen := rfl
@[simp] theorem setNotes_errArg0 : (setNotes ns s).errArg0 = s.errArg0 := rfl
@[simp] theorem setNotes_errArg1 : (setNotes ns s).errArg1 = s.errArg1 := rfl
@[simp] theorem setNotes_inBuf : (setNotes ns s).inBuf = s.inBuf := rfl
@[simp] theorem setNotes_outBuf : (setNotes ns s).outBuf = s.outBuf := rfl
@[simp] theorem setNotes_notes : (setNotes ns s).notes = ns := rfl
@[simp] theorem setNotes_draws : (setNotes ns s).draws = s.draws := rfl
@[simp] theorem setNotes_pending : (setNotes ns s).pending = s.pending := rfl
@[simp] theorem setNotes_responses : (setNotes ns s).responses = s.responses := rfl
@[simp] theorem setNotes_held : (setNotes ns s).held = s.held := rfl

end

section
variable (d : Nat) (s : State)

@[simp] theorem setDraws_cfg : (setDraws d s).cfg = s.cfg := rfl
@[simp] theorem setDraws_status : (setDraws d s).status = s.status := rfl
@[simp] theorem setDraws_srcPort : (setDraws d s).srcPort = s.srcPort := rfl
@[simp] theorem setDraws_dstPort : (setDraws d s).dstPort = s.dstPort := rfl
@[simp] theorem setDraws_inLen : (setDraws d s).inLen = s.inLen := rfl
@[simp] theorem setDraws_resSrc : (setDraws d s).resSrc = s.resSrc := rfl
@[simp] theorem setDraws_resDst : (setDraws d s).resDst = s.resDst := rfl
@[simp] theorem setDraws_resLen : (setDraws d s).resLen = s.resLen := rfl
@[simp] theorem setDraws_resCsum : (setDraws d s).resCsum = s.resCsum := rfl
@[simp] theorem setDraws_outLen : (setDraws d s).outLen = s.outLen := rfl
@[simp] theorem setDraws_errArg0 : (setDraws d s).errArg0 = s.errArg0 := rfl
@[simp] theorem setDraws_errArg1 : (setDraws d s).errArg1 = s.errArg1 := rfl
@[simp] theorem setDraws_inBuf : (setDraws d s).inBuf = s.inBuf := rfl
@[simp] theorem setDraws_outBuf : (setDraws d s).outBuf = s.outBuf := rfl
@[simp] theorem setDraws_notes : (setDraws d s).notes = s.notes := rfl
@[simp] theorem setDraws_draws : (setDraws d s).draws = d := rfl
@[simp] theorem setDraws_pending : (setDraws d s).pending = s.pending := rfl
@[simp] theorem setDraws_responses : (setDraws d s).responses = s.responses := rfl
@[simp] theorem setDraws_held : (setDraws d s).held = s.held := rfl

end

section
variable (m : Memory) (s : State)

@[simp] theorem setHeld_cfg : (setHeld m s).cfg = s.cfg := rfl
@[simp] theorem setHeld_status : (setHeld m s).status = s.status := rfl
@[simp] theorem setHeld_srcPort : (setHeld m s).srcPort = s.srcPort := rfl
@[simp] theorem setHeld_dstPort : (setHeld m s).dstPort = s.dstPort := rfl
@[simp] theorem setHeld_inLen : (setHeld m s).inLen = s.inLen := rfl
@[simp] theorem setHeld_resSrc : (setHeld m s).resSrc = s.resSrc := rfl
@[simp] theorem setHeld_resDst : (setHeld m s).resDst = s.resDst := rfl
@[simp] theorem setHeld_resLen : (setHeld m s).resLen = s.resLen := rfl
@[simp] theorem setHeld_resCsum : (setHeld m s).resCsum = s.resCsum := rfl
@[simp] theorem setHeld_outLen : (setHeld m s).outLen = s.outLen := rfl
@[simp] theorem setHeld_errArg0 : (setHeld m s).errArg0 = s.errArg0 := rfl
@[simp] theorem setHeld_errArg1 : (setHeld m s).errArg1 = s.errArg1 := rfl
@[simp] theorem setHeld_inBuf : (setHeld m s).inBuf = s.inBuf := rfl
@[simp] theorem setHeld_outBuf : (setHeld m s).outBuf = s.outBuf := rfl
@[simp] theorem setHeld_notes : (setHeld m s).notes = s.notes := rfl
@[simp] theorem setHeld_draws : (setHeld m s).draws = s.draws := rfl
@[simp] theorem setHeld_pending : (setHeld m s).pending = s.pending := rfl
@[simp] theorem setHeld_responses : (setHeld m s).responses = s.responses := rfl
@[simp] theorem setHeld_held : (setHeld m s).held = m := rfl

end

section
variable (es : List Event) (s : State)

@[simp] theorem setPending_cfg : (setPending es s).cfg = s.cfg := rfl
@[simp] theorem setPending_status : (setPending es s).status = s.status := rfl
@[simp] theorem setPending_srcPort : (setPending es s).srcPort = s.srcPort := rfl
@[simp] theorem setPending_dstPort : (setPending es s).dstPort = s.dstPort := rfl
@[simp] theorem setPending_inLen : (setPending es s).inLen = s.inLen := rfl
@[simp] theorem setPending_resSrc : (setPending es s).resSrc = s.resSrc := rfl
@[simp] theorem setPending_resDst : (setPending es s).resDst = s.resDst := rfl
@[simp] theorem setPending_resLen : (setPending es s).resLen = s.resLen := rfl
@[simp] theorem setPending_resCsum : (setPending es s).resCsum = s.resCsum := rfl
@[simp] theorem setPending_outLen : (setPending es s).outLen = s.outLen := rfl
@[simp] theorem setPending_errArg0 : (setPending es s).errArg0 = s.errArg0 := rfl
@[simp] theorem setPending_errArg1 : (setPending es s).errArg1 = s.errArg1 := rfl
@[simp] theorem setPending_inBuf : (setPending es s).inBuf = s.inBuf := rfl
@[simp] theorem setPending_outBuf : (setPending es s).outBuf = s.outBuf := rfl
@[simp] theorem setPending_notes : (setPending es s).notes = s.notes := rfl
@[simp] theorem setPending_draws : (setPending es s).draws = s.draws := rfl
@[simp] theorem setPending_pending : (setPending es s).pending = es := rfl
@[simp] theorem setPending_responses : (setPending es s).responses = s.responses := rfl
@[simp] theorem setPending_held : (setPending es s).held = s.held := rfl

end

section
variable (r : Response) (s : State)

@[simp] theorem respond_cfg : (respond r s).cfg = s.cfg := rfl
@[simp] theorem respond_status : (respond r s).status = s.status := rfl
@[simp] theorem respond_srcPort : (respond r s).srcPort = s.srcPort := rfl
@[simp] theorem respond_dstPort : (respond r s).dstPort = s.dstPort := rfl
@[simp] theorem respond_inLen : (respond r s).inLen = s.inLen := rfl
@[simp] theorem respond_resSrc : (respond r s).resSrc = s.resSrc := rfl
@[simp] theorem respond_resDst : (respond r s).resDst = s.resDst := rfl
@[simp] theorem respond_resLen : (respond r s).resLen = s.resLen := rfl
@[simp] theorem respond_resCsum : (respond r s).resCsum = s.resCsum := rfl
@[simp] theorem respond_outLen : (respond r s).outLen = s.outLen := rfl
@[simp] theorem respond_errArg0 : (respond r s).errArg0 = s.errArg0 := rfl
@[simp] theorem respond_errArg1 : (respond r s).errArg1 = s.errArg1 := rfl
@[simp] theorem respond_inBuf : (respond r s).inBuf = s.inBuf := rfl
@[simp] theorem respond_outBuf : (respond r s).outBuf = s.outBuf := rfl
@[simp] theorem respond_notes : (respond r s).notes = s.notes := rfl
@[simp] theorem respond_draws : (respond r s).draws = s.draws := rfl
@[simp] theorem respond_pending : (respond r s).pending = s.pending := rfl
@[simp] theorem respond_responses : (respond r s).responses = s.responses ++ [r] := rfl
@[simp] theorem respond_held : (respond r s).held = s.held := rfl

end

end Sys2Proof.Machine.State
end

