-- ==== Sys2Proof/Laws/Status.lean ====
section
/-! SUPPORT. The fields of STATUS after each of its updates (Machine/Flags.lean), and the decoder's and
encoder's fields. -/

namespace Sys2Proof.Machine.Status

variable (st : Word) (c op : BitVec 4)

@[simp] theorem err_setErr : err (setErr st c) = c := by
  ext i hi
  simp [err, setErr]
  interval_cases i <;> simp

@[simp] theorem wsrc_setErr : wsrc (setErr st c) = wsrc st := by
  simp [wsrc, setErr]

@[simp] theorem wcsum_setErr : wcsum (setErr st c) = wcsum st := by
  simp [wcsum, setErr]

@[simp] theorem lastOp_setErr : lastOp (setErr st c) = lastOp st := by
  ext i hi
  simp [lastOp, setErr]
  interval_cases i <;> simp

@[simp] theorem err_setWsrc : err (setWsrc st) = err st := by
  ext i hi
  simp [err, setWsrc]
  interval_cases i <;> simp

@[simp] theorem wsrc_setWsrc : wsrc (setWsrc st) = true := by
  simp [wsrc, setWsrc]

@[simp] theorem wcsum_setWsrc : wcsum (setWsrc st) = wcsum st := by
  simp [wcsum, setWsrc]

@[simp] theorem lastOp_setWsrc : lastOp (setWsrc st) = lastOp st := by
  ext i hi
  simp [lastOp, setWsrc]
  interval_cases i <;> simp

@[simp] theorem err_setWcsum : err (setWcsum st) = err st := by
  ext i hi
  simp [err, setWcsum]
  interval_cases i <;> simp

@[simp] theorem wsrc_setWcsum : wsrc (setWcsum st) = wsrc st := by
  simp [wsrc, setWcsum]

@[simp] theorem wcsum_setWcsum : wcsum (setWcsum st) = true := by
  simp [wcsum, setWcsum]

@[simp] theorem lastOp_setWcsum : lastOp (setWcsum st) = lastOp st := by
  ext i hi
  simp [lastOp, setWcsum]
  interval_cases i <;> simp

@[simp] theorem err_start : err (start op) = 0 := by
  revert op; decide

@[simp] theorem wsrc_start : wsrc (start op) = false := by
  revert op; decide

@[simp] theorem wcsum_start : wcsum (start op) = false := by
  revert op; decide

@[simp] theorem lastOp_start : lastOp (start op) = op := by
  revert op; decide

/-! ## STATUS after an operation's notifications (R247) -/

/-- STATUS after a list of notifications, in order. -/
def afterNotes (st : Word) (ns : List Notification) : Word := ns.foldl afterNote st

/-- The notification is the warning of a zero source port, or of a zero checksum. -/
def isSrcWarning (n : Notification) : Bool := n.level == .warn && n.code == .srcPortZero

def isCsumWarning (n : Notification) : Bool := n.level == .warn && n.code == .checksumZero

variable (n : Notification) (ns : List Notification)

/-- A notification leaves STATUS as it was or sets one of the two warning bits. -/
theorem afterNote_cases :
    (afterNote st n = st ∧ isSrcWarning n = false ∧ isCsumWarning n = false) ∨
    (afterNote st n = setWsrc st ∧ isSrcWarning n = true ∧ isCsumWarning n = false) ∨
    (afterNote st n = setWcsum st ∧ isSrcWarning n = false ∧ isCsumWarning n = true) := by
  obtain ⟨l, c, a0, a1⟩ := n
  cases l <;> cases c <;> simp [afterNote, isSrcWarning, isCsumWarning]

@[simp] theorem err_afterNotes : err (afterNotes st ns) = err st := by
  induction ns generalizing st with
  | nil => rfl
  | cons n ns ih =>
    rw [show afterNotes st (n :: ns) = afterNotes (afterNote st n) ns from rfl, ih]
    rcases afterNote_cases st n with h | h | h <;> simp [h.1]

@[simp] theorem lastOp_afterNotes : lastOp (afterNotes st ns) = lastOp st := by
  induction ns generalizing st with
  | nil => rfl
  | cons n ns ih =>
    rw [show afterNotes st (n :: ns) = afterNotes (afterNote st n) ns from rfl, ih]
    rcases afterNote_cases st n with h | h | h <;> simp [h.1]

/-- WSRC is set by that warning and by nothing else. -/
@[simp] theorem wsrc_afterNotes :
    wsrc (afterNotes st ns) = (wsrc st || ns.any isSrcWarning) := by
  induction ns generalizing st with
  | nil => simp [afterNotes]
  | cons n ns ih =>
    rw [show afterNotes st (n :: ns) = afterNotes (afterNote st n) ns from rfl, ih]
    rcases afterNote_cases st n with h | h | h <;> simp [h]

/-- WCSUM is set by that warning and by nothing else. -/
@[simp] theorem wcsum_afterNotes :
    wcsum (afterNotes st ns) = (wcsum st || ns.any isCsumWarning) := by
  induction ns generalizing st with
  | nil => simp [afterNotes]
  | cons n ns ih =>
    rw [show afterNotes st (n :: ns) = afterNotes (afterNote st n) ns from rfl, ih]
    rcases afterNote_cases st n with h | h | h <;> simp [h]

/-! ## The reserved bits stay 0 -/

/-- A word with no reserved bit set; kept by every update of STATUS. -/
abbrev reservedClear (st : Word) : Prop := st &&& mask = st

theorem reservedClear_start : reservedClear (start op) := by
  revert op; decide

/-- Setting bits inside the mask keeps the others 0. -/
theorem reservedClear_or {st v : Word} (h : reservedClear st) (hv : v &&& mask = v) :
    reservedClear (st ||| v) := by
  unfold reservedClear at *
  rw [BitVec.and_comm, BitVec.and_or_distrib_left, BitVec.and_comm, h, BitVec.and_comm, hv]

theorem reservedClear_setErr {st : Word} (h : reservedClear st) : reservedClear (setErr st c) := by
  refine reservedClear_or ?_ (by revert c; decide)
  unfold reservedClear at *
  rw [BitVec.and_assoc, BitVec.and_comm _ mask, ← BitVec.and_assoc, h]

theorem reservedClear_afterNotes {st : Word} (h : reservedClear st) :
    reservedClear (afterNotes st ns) := by
  induction ns generalizing st with
  | nil => exact h
  | cons n ns ih =>
    refine ih ?_
    rcases afterNote_cases st n with h' | h' | h' <;> rw [h'.1]
    · exact h
    · exact reservedClear_or h (by decide)
    · exact reservedClear_or h (by decide)

end Sys2Proof.Machine.Status
end

