-- ==== Sys2Proof/Laws/Ops.lean ====
section
/-! SUPPORT. What each shared operation does, said once: the notifications, the start, the failure and the
success of a command, the input snapshot, and `runCommand`'s two cases. -/

namespace Sys2Proof.Machine

variable (s : State)

/-- The notifications of an operation append themselves and set STATUS, and change nothing else. -/
theorem notifyAll_eq (ns : List Notification) :
    notifyAll ns s =
      (s.setNotes (s.notes ++ ns)).setStatus (Status.afterNotes s.status ns) := by
  induction ns generalizing s with
  | nil => simp [notifyAll, Status.afterNotes, State.setNotes, State.setStatus]
  | cons n ns ih =>
    have := ih (notify s n)
    simp only [notifyAll, List.foldl_cons] at this ⊢
    rw [this]
    simp [notify, Status.afterNotes, State.setNotes, State.setStatus]

/-- R92's prologue: STATUS and the error arguments, and nothing else. -/
theorem beginCommand_eq (v : Word) :
    beginCommand v s =
      { s with status := Status.start (opField v), errArg0 := 0, errArg1 := 0 } := rfl

/-- R246: the failure commit's every effect. -/
theorem failCommit_eq (code : Code) (a0 a1 : Word) :
    failCommit code a0 a1 s =
      { s with
        status := Status.setErr s.status code.num, errArg0 := a0, errArg1 := a1,
        resSrc := 0, resDst := 0, resLen := 0, resCsum := 0, outLen := 0 } := rfl

/-- A success's write of OUT: OUT and OUT_LEN, and nothing else. -/
theorem writeOut_eq (b : Bytes) :
    writeOut b s =
      { s with
        outBuf := Memory.writeFrom 0 b s.outBuf, outLen := BitVec.ofNat 32 b.length } := rfl

@[simp] theorem inputOf_beginCommand (v : Word) : inputOf (beginCommand v s) = inputOf s := rfl

@[simp] theorem inputTaken_beginCommand (v : Word) :
    inputTaken (beginCommand v s) = inputTaken s := rfl

@[simp] theorem afterInput_beginCommand (v : Word) :
    afterInput (beginCommand v s) =
      { s with
        status := Status.start (opField v), errArg0 := 0, errArg1 := 0,
        draws := (inputTaken s).2 } := rfl

/-- The snapshot has IN_LEN bytes. -/
@[simp] theorem inputOf_length : (inputOf s).length = s.inLen.toNat := by
  simp [inputOf, inputTaken]

/-- The snapshot of written bytes holds them and draws nothing. -/
theorem inputTaken_written (h : ∀ k, k < s.inLen.toNat → s.inBuf.written k = true) :
    (inputTaken s).2 = s.draws ∧
      ∀ k, k < s.inLen.toNat → (inputOf s)[k]? = s.inBuf.read k := by
  have := Memory.takeBytes_written s.inBuf 0 s.draws s.inLen.toNat (fun i _ hi => h i (by omega))
  simpa [inputOf, inputTaken] using this

/-- A legal command whose length fits: its own rule, on the snapshot. -/
theorem runCommand_fits (v : Word) (body : Bytes → State → State) (h : lengthFits s) :
    runCommand v body s =
      body (inputOf s)
        { s with
          status := Status.start (opField v), errArg0 := 0, errArg1 := 0,
          draws := (inputTaken s).2 } :=
  if_pos h

/-- A legal command whose length does not fit (R94). -/
theorem runCommand_tooLong (v : Word) (body : Bytes → State → State) (h : ¬ lengthFits s) :
    runCommand v body s =
      failCommit .badInputLength s.inLen (BitVec.ofNat 32 s.cfg.inCap) (beginCommand v s) :=
  if_neg h

/-- A core operation that failed commits its notifications and R246's failure. -/
theorem commit_error {α : Type} {e : Emission α} (success : α → State → State)
    {ns : List Notification} {code : Code} {a0 a1 : Word} (h : e = ⟨ns, .error code a0 a1⟩) :
    commit e success s =
      { s with
        status := Status.setErr (Status.afterNotes s.status ns) code.num,
        errArg0 := a0, errArg1 := a1, resSrc := 0, resDst := 0, resLen := 0, resCsum := 0,
        outLen := 0, notes := s.notes ++ ns } := by
  subst h
  simp only [commit, notifyAll_eq]
  rfl

/-- A core operation that succeeded commits its notifications and then its own writes. -/
theorem commit_ok {α : Type} {e : Emission α} (success : α → State → State)
    {ns : List Notification} {r : α} (h : e = ⟨ns, .ok r⟩) :
    commit e success s =
      success r { s with status := Status.afterNotes s.status ns, notes := s.notes ++ ns } := by
  subst h
  simp only [commit, notifyAll_eq]
  rfl

@[simp] theorem opField_encode (i : Instr) : opField (encode i) = i.opcode := by
  cases i <;> decide

/-- A length that fits in 32 bits is its own argument. -/
theorem lengthArg_of_lt {n : Nat} (h : n < 2 ^ 32) : lengthArg n = BitVec.ofNat 32 n := if_pos h

end Sys2Proof.Machine
end

