-- ==== Sys2Proof/Laws/Commands.lean ====
section
/-! SUPPORT. Each command said once: every case of its effect as one record, in the core function's own result.
The provers cite these instead of unfolding a meaning. -/

namespace Sys2Proof.Machine

variable {s : State}

/-- Each command gives a next state, from every state. -/
theorem exec_next (i : Instr) (s : State) : ∃ t, exec i s = .next t := by
  cases i <;> exact ⟨_, rfl⟩

/-- R94, for each command. -/
theorem exec_tooLong (i : Instr) (h : ¬ lengthFits s) :
    exec i s = .next
      { s with
        status := Status.setErr (Status.start i.opcode) Code.badInputLength.num,
        errArg0 := s.inLen, errArg1 := BitVec.ofNat 32 s.cfg.inCap,
        resSrc := 0, resDst := 0, resLen := 0, resCsum := 0, outLen := 0 } := by
  cases i <;>
    exact congrArg Host.Outcome.next (runCommand_tooLong s _ _ h)

/-- R150. -/
theorem exec_csum (h : lengthFits s) :
    exec .csum s = .next
      { s with
        status := Status.start Instr.csum.opcode, errArg0 := 0, errArg1 := 0,
        resSrc := 0, resDst := 0, resLen := 0, resCsum := (checksum (inputOf s)).setWidth 32,
        outLen := 0, draws := (inputTaken s).2 } :=
  congrArg Host.Outcome.next (runCommand_fits s _ _ h)

/-- R175, when the core's encode fails. -/
theorem exec_build_error {c : Code} {a0 a1 : Word} {ns : List Notification} (h : lengthFits s)
    (hr : buildDatagram (srcOperand s) (dstOperand s) (inputOf s) = ⟨ns, .error c a0 a1⟩) :
    exec .build s = .next
      { s with
        status := Status.setErr (Status.afterNotes (Status.start Instr.build.opcode) ns) c.num,
        errArg0 := a0, errArg1 := a1, resSrc := 0, resDst := 0, resLen := 0, resCsum := 0,
        outLen := 0, notes := s.notes ++ ns, draws := (inputTaken s).2 } :=
  congrArg Host.Outcome.next ((runCommand_fits s _ _ h).trans (commit_error _ _ hr))

/-- R175, when the core's encode succeeds. -/
theorem exec_build_ok {b : Bytes} {ns : List Notification} (h : lengthFits s)
    (hr : buildDatagram (srcOperand s) (dstOperand s) (inputOf s) = ⟨ns, .ok b⟩) :
    exec .build s = .next
      { s with
        status := Status.afterNotes (Status.start Instr.build.opcode) ns,
        errArg0 := 0, errArg1 := 0,
        resSrc := (srcOperand s).setWidth 32, resDst := (dstOperand s).setWidth 32,
        resLen := (lengthField (inputOf s)).setWidth 32,
        resCsum := (checksum (inputOf s)).setWidth 32,
        outBuf := Memory.writeFrom 0 b s.outBuf, outLen := BitVec.ofNat 32 b.length,
        notes := s.notes ++ ns, draws := (inputTaken s).2 } :=
  congrArg Host.Outcome.next ((runCommand_fits s _ _ h).trans (commit_ok _ _ hr))

/-- R205, when the core's decode fails. -/
theorem exec_parse_error {c : Code} {a0 a1 : Word} {ns : List Notification} (h : lengthFits s)
    (hr : parseDatagram (inputOf s) = ⟨ns, .error c a0 a1⟩) :
    exec .parse s = .next
      { s with
        status := Status.setErr (Status.afterNotes (Status.start Instr.parse.opcode) ns) c.num,
        errArg0 := a0, errArg1 := a1, resSrc := 0, resDst := 0, resLen := 0, resCsum := 0,
        outLen := 0, notes := s.notes ++ ns, draws := (inputTaken s).2 } :=
  congrArg Host.Outcome.next ((runCommand_fits s _ _ h).trans (commit_error _ _ hr))

/-- R205, when the core's decode succeeds. -/
theorem exec_parse_ok {g : Datagram} {ns : List Notification} (h : lengthFits s)
    (hr : parseDatagram (inputOf s) = ⟨ns, .ok g⟩) :
    exec .parse s = .next
      { s with
        status := Status.afterNotes (Status.start Instr.parse.opcode) ns,
        errArg0 := 0, errArg1 := 0,
        resSrc := g.sourcePort.setWidth 32, resDst := g.destinationPort.setWidth 32,
        resLen := g.length.setWidth 32, resCsum := g.checksum.setWidth 32,
        outBuf := Memory.writeFrom 0 g.data s.outBuf, outLen := BitVec.ofNat 32 g.data.length,
        notes := s.notes ++ ns, draws := (inputTaken s).2 } :=
  congrArg Host.Outcome.next ((runCommand_fits s _ _ h).trans (commit_ok _ _ hr))

/-- What a successful command stores in OUT, and where OUT_LEN then stands. -/
inductive Stores (s : State) : Instr → Bytes → Memory → Word → Prop where
  | csum : Stores s .csum [] s.outBuf 0
  | build (b : Bytes) (hlen : b.length = 8 + s.inLen.toNat) (hmax : s.inLen.toNat ≤ 65527) :
      Stores s .build b (Memory.writeFrom 0 b s.outBuf) (BitVec.ofNat 32 b.length)
  | parse (b : Bytes) (hlen : s.inLen.toNat = 8 + b.length) (hmax : s.inLen.toNat ≤ 65535) :
      Stores s .parse b (Memory.writeFrom 0 b s.outBuf) (BitVec.ofNat 32 b.length)

/-- Every case of a command: IN_LEN too big (R94); a failure of the core (R246); a success. -/
inductive Ran (i : Instr) (s t : State) : Prop where
  | tooLong (h : ¬ lengthFits s)
      (ht : t = { s with
        status := Status.setErr (Status.start i.opcode) Code.badInputLength.num,
        errArg0 := s.inLen, errArg1 := BitVec.ofNat 32 s.cfg.inCap,
        resSrc := 0, resDst := 0, resLen := 0, resCsum := 0, outLen := 0 })
  | failed (h : lengthFits s) (ws : List Notification) (c : Code) (a0 a1 : Word)
      (hw : ∀ n ∈ ws, isWarning n) (hlo : 1 ≤ c.num.toNat) (hhi : c.num.toNat ≤ 5)
      (ht : t = { s with
        status := Status.setErr (Status.afterNotes (Status.start i.opcode)
          (ws ++ [⟨.error, c, a0, a1⟩])) c.num,
        errArg0 := a0, errArg1 := a1, resSrc := 0, resDst := 0, resLen := 0, resCsum := 0,
        outLen := 0, notes := s.notes ++ (ws ++ [⟨.error, c, a0, a1⟩]),
        draws := (inputTaken s).2 })
  | ok (h : lengthFits s) (ns : List Notification) (hw : ∀ n ∈ ns, isWarning n)
      (src dst len csum : Half) (b : Bytes) (m : Memory) (l : Word) (hs : Stores s i b m l)
      (ht : t = { s with
        status := Status.afterNotes (Status.start i.opcode) ns, errArg0 := 0, errArg1 := 0,
        resSrc := src.setWidth 32, resDst := dst.setWidth 32, resLen := len.setWidth 32,
        resCsum := csum.setWidth 32, outBuf := m, outLen := l, notes := s.notes ++ ns,
        draws := (inputTaken s).2 })

/-- The inversion of `exec`. -/
theorem exec_ran {i : Instr} {s t : State} (h : exec i s = .next t) : Ran i s t := by
  by_cases hf : lengthFits s
  · cases i with
    | csum =>
      rw [exec_csum hf] at h
      cases h
      exact .ok hf [] (by simp) 0 0 0 (checksum (inputOf s)) _ _ _ .csum (by simp; rfl)
    | build =>
      rcases buildDatagram_shape (srcOperand s) (dstOperand s) (inputOf s) with
        ⟨ws, c, a0, a1, he, hw, hlo, hhi⟩ | ⟨ns, b, he, hw⟩
      · rw [exec_build_error hf he] at h
        cases h
        exact .failed hf ws c a0 a1 hw hlo hhi rfl
      · rw [exec_build_ok hf he] at h
        cases h
        obtain ⟨-, -, hmax, hb⟩ := buildDatagram_ok he
        rw [inputOf_length] at hmax
        refine .ok hf ns hw _ _ _ _ _ _ _ (.build b ?_ hmax) rfl
        rw [hb, wireForm_eq]
        simp only [List.length_cons, inputOf_length]
        omega
    | parse =>
      rcases parseDatagram_shape (inputOf s) with
        ⟨ws, c, a0, a1, he, hw, hlo, hhi⟩ | ⟨ns, g, he, hw⟩
      · rw [exec_parse_error hf he] at h
        cases h
        exact .failed hf ws c a0 a1 hw hlo hhi rfl
      · rw [exec_parse_ok hf he] at h
        cases h
        obtain ⟨hlen, hn, -⟩ := parseDatagram_ok he
        rw [inputOf_length] at hlen hn
        have := g.length.isLt
        exact .ok hf ns hw _ _ _ _ _ _ _ (.parse g.data hlen (by omega)) rfl
  · rw [exec_tooLong i hf] at h
    cases h
    exact .tooLong hf rfl

end Sys2Proof.Machine
end

