-- ==== Sys2Proof/Laws/HostAccess.lean ====
section
/-! SUPPORT. The address map and the step said once: where each offset leads, what one access does, and every
case of a step. -/

namespace Sys2Proof.Machine

/-- An offset of the block is at its bus address (R62). -/
theorem blockOffset_add (c : Config) {o : Nat} (h : o < Config.blockSize) :
    blockOffset c (c.base + o) = some o := by
  rw [blockOffset, if_pos ⟨Nat.le_add_right _ _, by omega⟩, Nat.add_sub_cancel_left]

/-- An address of the block has an offset below the block's size. -/
theorem blockOffset_some {c : Config} {a : Nat} (h : c.Addresses a) :
    blockOffset c a = some (a - c.base) := if_pos h

theorem blockOffset_none {c : Config} {a : Nat} (h : ¬ c.Addresses a) : blockOffset c a = none :=
  if_neg h

/-- A register is at its own offset, whatever the parameters. -/
@[simp] theorem target_reg (c : Config) (r : Reg) : target c r.offset = .reg r := by
  cases r <;> rfl

@[simp] theorem offset_aligned (r : Reg) : r.offset % 4 = 0 := by
  cases r <;> rfl

/-- Only a register's own offset leads to it. -/
theorem offset_of_target {c : Config} {o : Nat} {r : Reg} (h : target c o = .reg r) : o = r.offset := by
  unfold target at h
  split at h
  · split at h
    · rename_i r' hr
      cases h
      have := List.find?_some hr
      simp only [beq_iff_eq] at this
      exact this.symm
    · cases h
  · split at h
    · split at h <;> cases h
    · split at h
      · split at h <;> cases h
      · cases h

/-- R62's IN window. -/
theorem target_inByte (c : Config) {k : Nat} (h : k < c.inCap) (hk : k < 0x10000) :
    target c (inWindow + k) = .inByte k := by
  unfold target inWindow outWindow
  rw [if_neg (by omega), if_pos (by omega), Nat.add_sub_cancel_left, if_pos h]

/-- R62's OUT window. -/
theorem target_outByte (c : Config) {k : Nat} (h : k < c.outCap) (hk : k < 0x10000) :
    target c (outWindow + k) = .outByte k := by
  unfold target inWindow outWindow windowsEnd
  rw [if_neg (by omega), if_neg (by omega), if_pos (by omega), Nat.add_sub_cancel_left, if_pos h]

/-- An offset that leads to an IN byte is that byte's, inside the capacity. -/
theorem offset_of_inByte {c : Config} {o k : Nat} (h : target c o = .inByte k) :
    o = inWindow + k ∧ k < c.inCap := by
  unfold target at h
  split at h
  · split at h <;> cases h
  · split at h
    · split at h
      · rename_i hk
        have h := Target.inByte.inj h
        rw [h] at hk
        exact ⟨by omega, hk⟩
      · cases h
    · split at h
      · split at h <;> cases h
      · cases h

/-- An offset that leads to an OUT byte is that byte's, inside the capacity. -/
theorem offset_of_outByte {c : Config} {o k : Nat} (h : target c o = .outByte k) :
    o = outWindow + k ∧ k < c.outCap := by
  unfold target at h
  split at h
  · split at h <;> cases h
  · split at h
    · split at h <;> cases h
    · split at h
      · split at h
        · rename_i hk
          have h := Target.outByte.inj h
          rw [h] at hk
          exact ⟨by omega, hk⟩
        · cases h
      · cases h

/-- The step of a state with an event pending is that event's effect on the state without it. -/
theorem step_cons {s : State} {e : Event} {rest : List Event} (h : s.pending = e :: rest) :
    step s = runEvent e { s with pending := rest } := by
  unfold step
  rw [h]
  rfl

theorem step_nil {s : State} (h : s.pending = []) : step s = .next s := by
  unfold step
  rw [h]

/-- The step of an access at an offset of the block. -/
theorem step_access {s : State} {a : Access} {rest : List Event} {o : Nat}
    (h : s.pending = .access a :: rest) (ha : a.addr = s.cfg.base + o) (ho : o < Config.blockSize) :
    step s = accessAt o a { s with pending := rest } := by
  rw [step_cons h]
  show runAccess a _ = _
  unfold runAccess
  rw [ha, show ({ s with pending := rest } : State).cfg = s.cfg from rfl, blockOffset_add _ ho]

/-- A CMD write runs the word (R92). -/
theorem write32_cmd (v : Word) (s : State) :
    write32 0 v s = afterNext (State.respond .written) (writeCmd v s) := by
  have : target s.cfg 0 = .reg .cmd := target_reg s.cfg .cmd
  simp [write32, this]

/-- R93's commit, as one record. -/
theorem illegalCommand_eq (v : Word) (s : State) :
    illegalCommand v s =
      { s with
        status := Status.setErr (Status.start (opField v)) Code.illegalCommand.num,
        errArg0 := v, errArg1 := 0, resSrc := 0, resDst := 0, resLen := 0, resCsum := 0,
        outLen := 0 } := rfl

/-- Every case of an access that the block answers. -/
inductive Answered (s t : State) : Prop where
  /-- A bus error, or a register read. -/
  | answer (r : Response) (ht : t = s.respond r)
  /-- A byte read, drawing or not. -/
  | byte (b : Byte) (d : Nat) (hd : s.draws ≤ d) (ht : t = (s.setDraws d).respond (.data8 b))
  | srcPort (v : Word) (ht : t = (s.setSrcPort (v &&& 0xFFFF)).respond .written)
  | dstPort (v : Word) (ht : t = (s.setDstPort (v &&& 0xFFFF)).respond .written)
  | inLen (v : Word) (ht : t = (s.setInLen v).respond .written)
  | inByte (k : Nat) (v : Byte) (hk : k < s.cfg.inCap)
      (ht : t = (s.setInBuf (Memory.write k v s.inBuf)).respond .written)
  | command (i : Instr) (u : State) (hu : exec i s = .next u) (ht : t = u.respond .written)
  | illegal (v : Word) (ht : t = (illegalCommand v s).respond .written)

theorem readOrDraw_draws (m : Memory) (k d : Nat) : d ≤ (m.readOrDraw k d).2 := by
  unfold Memory.readOrDraw
  split
  · exact Nat.le_refl _
  · exact Nat.le_succ _

theorem read32_answered (o : Nat) (s : State) : Answered s (read32 o s) := by
  unfold read32
  split
  · exact .answer _ rfl
  · split <;> exact .answer _ rfl

theorem read8_answered (o : Nat) (s : State) : Answered s (read8 o s) := by
  unfold read8
  split
  · exact .byte _ _ (readOrDraw_draws _ _ _) rfl
  · split
    · exact .byte _ _ (readOrDraw_draws _ _ _) rfl
    · exact .byte _ _ (Nat.le_succ _) rfl
  · exact .answer _ rfl

theorem write8_answered (o : Nat) (v : Byte) (s : State) : Answered s (write8 o v s) := by
  unfold write8
  split
  · rename_i k h
    exact .inByte k v (offset_of_inByte h).2 rfl
  · exact .answer _ rfl

/-- A CMD write gives a next state, from every state (R289). -/
theorem writeCmd_next (v : Word) (s : State) :
    (∃ i t, decode v = .ok i ∧ exec i s = .next t ∧ writeCmd v s = .next t) ∨
    (∃ e, decode v = .error e ∧ writeCmd v s = .next (illegalCommand v s)) := by
  unfold writeCmd
  cases h : decode v with
  | ok i =>
    obtain ⟨t, ht⟩ := exec_next i s
    exact .inl ⟨i, t, rfl, ht, ht⟩
  | error e => exact .inr ⟨e, rfl, rfl⟩

theorem write32_answered (o : Nat) (v : Word) (s : State) :
    ∃ t, write32 o v s = .next t ∧ Answered s t := by
  unfold write32
  split
  · exact ⟨_, rfl, .answer _ rfl⟩
  · split
    · rcases writeCmd_next v s with ⟨i, t, -, ht, hw⟩ | ⟨e, -, hw⟩
      · exact ⟨_, by rw [hw]; rfl, .command i t ht rfl⟩
      · exact ⟨_, by rw [hw]; rfl, .illegal v rfl⟩
    · exact ⟨_, rfl, .srcPort v rfl⟩
    · exact ⟨_, rfl, .dstPort v rfl⟩
    · refine ⟨_, rfl, .inLen v ?_⟩
      rw [show v &&& Reg.mask .inLen = v from BitVec.and_allOnes]
    · exact ⟨_, rfl, .answer _ rfl⟩

/-- An access to the block always gives a next state, and this is what it can be. -/
theorem accessAt_answered (o : Nat) (a : Access) (s : State) :
    ∃ t, accessAt o a s = .next t ∧ Answered s t := by
  cases a with
  | r32 _ => exact ⟨_, rfl, read32_answered o s⟩
  | w32 _ v => exact write32_answered o v s
  | r8 _ => exact ⟨_, rfl, read8_answered o s⟩
  | w8 _ v => exact ⟨_, rfl, write8_answered o v s⟩
  | other _ _ _ => exact ⟨_, rfl, .answer _ rfl⟩

/-- An access either leads outside the block and is refused, or is answered. -/
theorem runAccess_cases (a : Access) (s : State) :
    (¬ s.cfg.Addresses a.addr ∧ runAccess a s = .refused .notTheBlock) ∨
    (s.cfg.Addresses a.addr ∧ ∃ t, runAccess a s = .next t ∧ Answered s t) := by
  by_cases h : s.cfg.Addresses a.addr
  · obtain ⟨t, ht, hc⟩ := accessAt_answered (a.addr - s.cfg.base) a s
    exact .inr ⟨h, t, by rw [runAccess, blockOffset_some h]; exact ht, hc⟩
  · exact .inl ⟨h, by rw [runAccess, blockOffset_none h]⟩

/-- What an answered access never changes, and its one answer. -/
theorem Answered.keeps {s t : State} (h : Answered s t) :
    t.cfg = s.cfg ∧ t.pending = s.pending ∧ t.held = s.held ∧
      ∃ r, t.responses = s.responses ++ [r] := by
  cases h with
  | answer r ht => subst ht; exact ⟨rfl, rfl, rfl, r, rfl⟩
  | byte b d _ ht => subst ht; exact ⟨rfl, rfl, rfl, _, rfl⟩
  | srcPort v ht => subst ht; exact ⟨rfl, rfl, rfl, _, rfl⟩
  | dstPort v ht => subst ht; exact ⟨rfl, rfl, rfl, _, rfl⟩
  | inLen v ht => subst ht; exact ⟨rfl, rfl, rfl, _, rfl⟩
  | inByte k v _ ht => subst ht; exact ⟨rfl, rfl, rfl, _, rfl⟩
  | illegal v ht =>
    rw [illegalCommand_eq] at ht
    subst ht
    exact ⟨rfl, rfl, rfl, _, rfl⟩
  | command i u hu ht =>
    subst ht
    rcases exec_ran hu with ⟨_, rfl⟩ | ⟨_, _, _, _, _, _, _, _, rfl⟩ | ⟨_, _, _, _, _, _, _, _, _, _, _, rfl⟩
    · exact ⟨rfl, rfl, rfl, _, rfl⟩
    · exact ⟨rfl, rfl, rfl, _, rfl⟩
    · exact ⟨rfl, rfl, rfl, _, rfl⟩

/-- Everything the keeping of an answer can do: one host's byte is kept or forgotten. -/
theorem keepAnswer_cases (host : Nat) (s : State) :
    (∃ b, lastByte s = some b ∧ keepAnswer host s = s.setHeld (Memory.write host b s.held)) ∨
    (lastByte s = none ∧ keepAnswer host s = s.setHeld (Memory.erase host s.held)) := by
  unfold keepAnswer
  cases h : lastByte s with
  | none => exact .inr ⟨rfl, rfl⟩
  | some b => exact .inl ⟨b, rfl, rfl⟩

/-- What is read back of the bytes kept. -/
theorem read_keepAnswer (host j : Nat) (s : State) :
    (keepAnswer host s).held.read j = if j = host then lastByte s else s.held.read j := by
  rcases keepAnswer_cases host s with ⟨b, hb, h⟩ | ⟨hb, h⟩ <;> rw [h, hb] <;> split
  · rename_i hj; subst hj; exact Memory.read_write_same _ _ _
  · rename_i hj; exact Memory.read_write_other _ _ hj
  · rename_i hj; subst hj; exact Memory.read_erase_same _ _
  · rename_i hj; exact Memory.read_erase_other _ hj

/-- The latest answer's byte. -/
theorem lastByte_append {s : State} {rs : List Response} {r : Response}
    (h : s.responses = rs ++ [r]) : lastByte s = byteOf r := by
  rw [lastByte, h, List.getLast?_concat, Option.bind_some]

/-- A copy-back's read is refused outside the block, and is an answered access whose answer is then kept. -/
theorem copyRead_cases (host a : Nat) (s : State) :
    (¬ s.cfg.Addresses a ∧ copyRead host a s = .refused .notTheBlock) ∨
    (s.cfg.Addresses a ∧ ∃ u, runAccess (.r8 a) s = .next u ∧ Answered s u ∧
      copyRead host a s = .next (keepAnswer host u)) := by
  unfold copyRead
  rcases runAccess_cases (.r8 a) s with ⟨hn, hr⟩ | ⟨ha, u, hr, hc⟩
  · exact .inl ⟨hn, by rw [hr]; rfl⟩
  · exact .inr ⟨ha, u, hr, hc, by rw [hr]; rfl⟩

/-- A copy-back's write is refused outside the block, and is an answered access of the byte kept or drawn. -/
theorem writeBack_cases (host a : Nat) (s : State) :
    (¬ s.cfg.Addresses a ∧ writeBack host a s = .refused .notTheBlock) ∨
    (s.cfg.Addresses a ∧ ∃ t, writeBack host a s = .next t ∧
      Answered (s.setDraws (Memory.readOrDraw s.held host s.draws).2) t) := by
  rcases runAccess_cases (.w8 a (Memory.readOrDraw s.held host s.draws).1)
    (s.setDraws (Memory.readOrDraw s.held host s.draws).2) with ⟨hn, hr⟩ | ⟨ha, t, hr, hc⟩
  · exact .inl ⟨hn, hr⟩
  · exact .inr ⟨ha, t, hr, hc⟩

/-- Every case of a step that gives a next state. -/
theorem step_cases {s t : State} (h : step s = .next t) :
    (s.pending = [] ∧ t = s) ∨
    (∃ rest, s.pending = .reset :: rest ∧ t = resetBlock { s with pending := rest }) ∨
    (∃ a rest, s.pending = .access a :: rest ∧ Answered { s with pending := rest } t) ∨
    (∃ host a rest u, s.pending = .copyRead host a :: rest ∧
      runAccess (.r8 a) { s with pending := rest } = .next u ∧
      Answered { s with pending := rest } u ∧ t = keepAnswer host u) ∨
    (∃ host a rest d, s.pending = .writeBack host a :: rest ∧ s.draws ≤ d ∧
      Answered { s with pending := rest, draws := d } t) := by
  cases hp : s.pending with
  | nil =>
    rw [step_nil hp] at h
    cases h
    exact .inl ⟨rfl, rfl⟩
  | cons e rest =>
    rw [step_cons hp] at h
    cases e with
    | reset =>
      cases h
      exact .inr (.inl ⟨rest, rfl, rfl⟩)
    | access a =>
      rcases runAccess_cases a { s with pending := rest } with ⟨_, hr⟩ | ⟨_, u, hr, hc⟩ <;>
        rw [show runEvent (.access a) _ = _ from hr] at h <;> cases h
      exact .inr (.inr (.inl ⟨a, rest, rfl, hc⟩))
    | copyRead host a =>
      rcases copyRead_cases host a { s with pending := rest } with ⟨_, hr⟩ | ⟨_, u, hu, hc, hr⟩ <;>
        rw [show runEvent (.copyRead host a) _ = _ from hr] at h <;> cases h
      exact .inr (.inr (.inr (.inl ⟨host, a, rest, u, rfl, hu, hc, rfl⟩)))
    | writeBack host a =>
      rcases writeBack_cases host a { s with pending := rest } with ⟨_, hr⟩ | ⟨_, u, hr, hc⟩ <;>
        rw [show runEvent (.writeBack host a) _ = _ from hr] at h <;> cases h
      exact .inr (.inr (.inr (.inr ⟨host, a, rest, _, rfl, readOrDraw_draws _ _ _, hc⟩)))

end Sys2Proof.Machine
end

