-- ==== Sys2Proof/Laws/PerInstr.lean ====
section
/-! SUPPORT. The per-instruction family `Encoding`: every command is well-formed and its word reads back as it,
both as a command word and as a row of spec/opcode_table.json. -/

namespace Sys2Proof.Laws.Encoding

/-- 30_encoding.md R90, R91: `i` is well-formed, its word has OP in `[3:0]` and zero above, and decodes to `i`. -/
def Statement (i : Instr) : Prop :=
  i.wf = true ∧ opField (encode i) = i.opcode ∧ mbzField (encode i) = 0 ∧
  decode (encode i) = .ok i ∧ decodeTableWord 32 (encode i).toNat = some i

theorem csum : Statement .csum := ⟨rfl, rfl, rfl, rfl, rfl⟩

theorem build : Statement .build := ⟨rfl, rfl, rfl, rfl, rfl⟩

theorem parse : Statement .parse := ⟨rfl, rfl, rfl, rfl, rfl⟩

end Sys2Proof.Laws.Encoding
end

