-- ==== Sys2Proof/Tests/Slice0.lean ====
section
/-! SUPPORT. The model's own tests.  Expected results come from 95_test_vectors.md (its number stands beside each)
or are worked out by hand from the rule cited.  `test_…` checks the model; `witness_…` meets a statement's
hypotheses, one conjunct for each clause, at boundary values. -/

namespace Sys2Proof.Tests

open Sys2Proof.Machine Sys2Proof.Claims

/-! ## Small states -/

/-- A small legal block, away from address 0. -/
def smallBlock : Config := { inCap := 16, outCap := 24, base := 0x40000 }

/-- A block right after reset, with the ports, IN from offset 0 and IN_LEN written. -/
def loaded (c : Config) (src dst : Word) (b : Bytes) : State :=
  { State.reset with
    cfg := c, srcPort := src, dstPort := dst, inLen := BitVec.ofNat 32 b.length,
    inBuf := Memory.writeFrom 0 b [] }

/-- A block right after reset with only DST_PORT and IN_LEN written. -/
def unloaded (c : Config) (dst n : Word) : State :=
  { State.reset with cfg := c, dstPort := dst, inLen := n }

/-- `s` with the events `es`, and no others, to come. -/
def facing (s : State) (es : List Event) : State := s.setPending es

/-- The next state, if there is one. -/
def nextOf : Host.Outcome State Fault Refusal → Option State
  | .next s => some s
  | .fault _ => none
  | .refused _ => none

def abc : Bytes := [0x61, 0x62, 0x63]

/-- D1's bytes. -/
def wireAbc : Bytes := [0x12, 0x34, 0x00, 0x50, 0x00, 0x0B, 0x3B, 0x9D, 0x61, 0x62, 0x63]

/-- D3's bytes. -/
def headerOnly : Bytes := [0x12, 0x34, 0x00, 0x50, 0x00, 0x08, 0xFF, 0xFF]

/-- D4's bytes. -/
def allZeroFields : Bytes := [0x00, 0x00, 0x00, 0x00, 0x00, 0x08, 0x00, 0x00]

/-- D11's bytes. -/
def badLength : Bytes := [0x12, 0x34, 0x00, 0x50, 0x00, 0x07, 0x00, 0x00]

/-! ## Well-formedness refuses what is ill-formed -/

theorem test_access_of_width_8_is_no_other : (Access.other 8 true 0).wf = false := by decide

theorem test_access_of_width_32_is_no_other : (Access.other 32 false 0).wf = false := by decide

theorem test_config_refuses_small_input : ¬ Config.Valid { inCap := 7, outCap := 65536, base := 0 } := by decide

theorem test_config_refuses_small_output : ¬ Config.Valid { inCap := 16, outCap := 23, base := 0 } := by decide

theorem test_config_refuses_misaligned_base :
    ¬ Config.Valid { inCap := 16, outCap := 24, base := 0x20000 } := by decide

theorem test_config_takes_the_standard : Config.standard.Valid ∧ smallBlock.Valid := by decide

theorem test_addresses_end_at_the_block : ¬ smallBlock.Addresses 0x80000 ∧ ¬ smallBlock.Addresses 0x3FFFF := by
  decide

/-! ## Decoding: words written out from R90 and R91 -/

theorem test_decode_csum : decode 0b00000000000000000000000000000001 = .ok .csum := by decide

theorem test_decode_build : decode 0b00000000000000000000000000000010 = .ok .build := by decide

theorem test_decode_parse : decode 0b00000000000000000000000000000011 = .ok .parse := by decide

/-- X3 to X6: the words that are no command. -/
theorem test_decode_illegal :
    decode 0x00000000 = .error .noSuchOpcode ∧ decode 0x0000000F = .error .noSuchOpcode ∧
    decode 0x00000012 = .error .reservedBitsNotZero ∧
    decode 0x80000001 = .error .reservedBitsNotZero := by decide

theorem test_table_words :
    decodeTableWord 32 1 = some .csum ∧ decodeTableWord 32 2 = some .build ∧
    decodeTableWord 32 3 = some .parse ∧ decodeTableWord 32 4 = none ∧
    decodeTableWord 64 0x100000001 = none := by decide

/-- The word placed runs as the first command after reset (X2). -/
theorem test_fetch_word_runs :
    (nextOf (step (State.reset.withFetchWord 32 1))).map resultRegs =
      some [0x100, 0, 0, 0, 0, 0, 0xFFFF, 0] := by decide

/-! ## The core -/

/-- K1, K3, K5. -/
theorem test_pack :
    packUint16 0x1234 = [0x12, 0x34] ∧ unpackUint16 [0x14, 0xE9] = some 0x14E9 ∧
    unpackUint16 [0x12] = none := by decide

/-- K6 to K10. -/
theorem test_concat_and_equal :
    concat [] = [] ∧ concat [[0x12, 0x34], [], [0x56]] = [0x12, 0x34, 0x56] ∧
    bytesEqual [] [] = true ∧ bytesEqual [0x61, 0x62] [0x61, 0x62, 0x00] = false ∧
    bytesEqual [0x61, 0x62] [0x61, 0x63] = false := by decide

/-- A2 to A5, A8. -/
theorem test_carry_fold :
    csumAdd 0xFFFF 0x0001 = 0x0001 ∧ csumAdd 0xFFFF 0xFFFF = 0xFFFF ∧ csumAdd 0x8000 0x8000 = 0x0001 ∧
    csumAdd 0xFFFF 0x0000 = 0xFFFF ∧ csumAdd 0x0001 0xFFFF = 0x0001 := by decide

/-- C1, C4, C25: the empty and the single byte against the padded one. -/
theorem test_checksum_short :
    checksum [] = 0xFFFF ∧ checksum [0x41] = 0xFFBE ∧ checksum [0xFF] = 0xFF00 ∧
    checksum [0xFF, 0x00] = 0x00FF := by decide

/-- S1, S3, C10, C14: folds and the odd trailing byte. -/
theorem test_checksum_walk :
    checksum [0xFF, 0xFF, 0xFF, 0xFF] = 0x0000 ∧
    checksum [0x61, 0x62, 0x63, 0x64, 0x65, 0x66, 0x67] = 0x6ED2 ∧
    checksum [0xFF, 0xFF, 0xFF] = 0x00FF ∧ checksum [0x12, 0x34, 0x56] = 0x97CB := by decide

/-- B2, B6, B9: the order of the checks, and no warning for a zero checksum. -/
theorem test_build_datagram :
    buildDatagram 0 7 [0xFF, 0xFF] =
      { notes := [warnNote .srcPortZero],
        result := .ok [0x00, 0x00, 0x00, 0x07, 0x00, 0x0A, 0x00, 0x00, 0xFF, 0xFF] } ∧
    buildDatagram 0 0 [] = failing [] .invalidDstPort 0 0 ∧
    buildDatagram 0 6 [] = failing [] .emptyPayload 0 0 := by decide

/-- D4, D11, D6, D10. -/
theorem test_parse_datagram :
    parseDatagram allZeroFields =
      failing [warnNote .checksumZero, warnNote .srcPortZero] .invalidDstPort 0 0 ∧
    parseDatagram badLength = failing [] .lengthMismatch 7 8 ∧
    parseDatagram [0x12, 0x34, 0x00, 0x50, 0x00, 0x0B] = failing [] .truncatedHeader 6 0 ∧
    parseDatagram [0x00, 0x01, 0x00, 0x02, 0x00, 0x09, 0x12, 0x34, 0xCC] =
      { notes := [],
        result := .ok
          { sourcePort := 1, destinationPort := 2, length := 9, checksum := 0x1234, data := [0xCC] } } := by
  decide

/-- Q2, Q5, Q6. -/
theorem test_datagram_equality :
    datagramEquals ⟨0x1234, 0x50, 0xB, 0x3B9D, abc⟩ (some ⟨0x1234, 0x50, 0xB, 0x0000, abc⟩) = false ∧
    datagramEquals ⟨0x1234, 0x50, 0xB, 0x3B9D, abc⟩ none = false ∧
    datagramEquals ⟨1, 2, 9, 0, [0xCC]⟩ (some ⟨1, 2, 9, 0, [0xCC, 0x00]⟩) = false := by decide

/-! ## The commands -/

/-- X1. -/
theorem test_csum_abcdef :
    (nextOf (exec .csum (loaded smallBlock 0 0 [0x61, 0x62, 0x63, 0x64, 0x65, 0x66]))).map resultRegs =
      some [0x100, 0, 0, 0, 0, 0, 0xD5D2, 0] := by decide

/-- X7. -/
theorem test_csum_too_long :
    (nextOf (exec .csum (unloaded Config.standard 0 0x10001))).map resultRegs =
      some [0x106, 0x10001, 0x10000, 0, 0, 0, 0, 0] := by decide

/-- B1 and R175's example. -/
theorem test_build_abc :
    (nextOf (exec .build (loaded smallBlock 0x1234 0x50 abc))).map
        (fun t => (resultRegs t, t.outBuf.map Prod.snd, t.notes)) =
      some ([0x200, 0, 0, 0x1234, 0x50, 0xB, 0x3B9D, 0xB], wireAbc, []) := by decide

/-- X9. -/
theorem test_build_without_port :
    (nextOf (exec .build (loaded smallBlock 0 0 [0xAA]))).map (fun t => (resultRegs t, t.outBuf, t.notes)) =
      some ([0x201, 0, 0, 0, 0, 0, 0, 0], [], [errorNote .invalidDstPort 0 0]) := by decide

/-- R205's example. -/
theorem test_parse_abc :
    (nextOf (exec .parse (loaded smallBlock 0 0 wireAbc))).map
        (fun t => (resultRegs t, t.outBuf.map Prod.snd, t.notes)) =
      some ([0x300, 0, 0, 0x1234, 0x50, 0xB, 0x3B9D, 3], abc, []) := by decide

/-- X11: the warnings stay when the last check fails. -/
theorem test_parse_warns_then_fails :
    (nextOf (exec .parse (loaded smallBlock 0 0 allZeroFields))).map (fun t => (resultRegs t, t.notes)) =
      some ([0x331, 0, 0, 0, 0, 0, 0, 0],
        [warnNote .checksumZero, warnNote .srcPortZero, errorNote .invalidDstPort 0 0]) := by decide

/-- X5, R93's example. -/
theorem test_illegal_word :
    (nextOf (writeCmd 0x12 State.reset)).map (fun t => (resultRegs t, t.notes)) =
      some ([0x207, 0x12, 0, 0, 0, 0, 0, 0], []) := by decide

/-! ## Host accesses -/

/-- The answers after one access at an offset of the standard block, and the state's registers the host writes. -/
def answered (s : State) (a : Access) : Option (List Response × List Word) :=
  (nextOf (step (facing s [.access a]))).map (fun t => (t.responses, [t.srcPort, t.dstPort, t.inLen]))

/-- H1, H2: what a register stores. -/
theorem test_register_write :
    answered State.reset (.w32 0x008 0xABCD1234) = some ([.written], [0x1234, 0, 0]) ∧
    answered State.reset (.w32 0x010 0xFFFFFFFF) = some ([.written], [0, 0, 0xFFFFFFFF]) := by decide

/-- H3 to H11 in one list. -/
theorem test_bus_errors :
    answered State.reset (.r32 0x000) = some ([.data32 0], [0, 0, 0]) ∧
    [Access.w32 0x004 0, .w32 0x020 0, .r32 0x002, .r32 0x030, .r8 0x004, .w8 0x20000 0x55,
      .w32 0x10000 0x01020304, .r32 0x30000].map (answered State.reset) =
      List.replicate 8 (some ([.busError], [0, 0, 0])) := by decide

/-- H12. -/
theorem test_input_byte :
    (nextOf (step (facing State.reset [.access (.w8 0x10005 0x5A)]))).map (fun t => t.inBuf) =
      some [(5, 0x5A)] ∧
    answered { State.reset with inBuf := [(5, 0x5A)] } (.r8 0x10005) = some ([.data8 0x5A], [0, 0, 0]) := by
  decide

/-- R101: what three of the pseudo-instructions stand for. -/
theorem test_host_lines :
    HostLine.expand 1 0 (.ports 0 7) = [.access (.w32 0x008 0), .access (.w32 0x00C 7)] ∧
    HostLine.expand 1 0 (.load 2 [0xAA, 0xBB]) = [.access (.w8 0x10002 0xAA), .access (.w8 0x10003 0xBB)] ∧
    HostLine.expand 1 0 (.copyback 1) = [.copyRead 1 0x20000, .writeBack 1 0x10000] := by decide

/-- R101: the host keeps the byte its read was answered, and writes that one, whoever was answered since. -/
theorem test_copyback_keeps_and_writes :
    (nextOf (step (facing { State.reset with inBuf := [(5, 0x5A)], held := [(1, 7), (2, 8)] }
        [.copyRead 1 0x10005]))).map (fun t => (t.held, t.responses)) =
      some ([(1, 0x5A), (2, 8)], [.data8 0x5A]) ∧
    (nextOf (step (facing { State.reset with held := [(1, 0x5A), (2, 8)], responses := [.data8 8] }
        [.writeBack 1 0x10000]))).map (fun t => (t.inBuf, t.draws)) = some ([(0, 0x5A)], 0) := by decide

/-! ## The hypotheses of the statements can be met -/

/-- A CMD write of `v`, the next event of `s`. -/
def commanding (s : State) (v : Word) : State := facing s [commandEvent s.cfg v]

/-- Every successful end the witnesses start from: the state after a command, or the state before it. -/
def afterCmd (i : Instr) (s : State) : State := (nextOf (exec i s)).getD s

/-- After BUILD of "abc" (B1): OUT_LEN is 11. -/
def built : State := afterCmd .build (loaded smallBlock 0x1234 0x50 abc)

/-- After PARSE of B1's bytes (D1): OUT_LEN is 3. -/
def parsed : State := afterCmd .parse (loaded smallBlock 0 0 wireAbc)

theorem exec_built : exec .build (loaded smallBlock 0x1234 0x50 abc) = .next built := rfl

theorem exec_parsed : exec .parse (loaded smallBlock 0 0 wireAbc) = .next parsed := rfl

theorem witness_byteCodecPrimitives :
    ([0x14, 0xE9] : Bytes).length = 2 ∧ ([0x12] : Bytes).length ≠ 2 ∧ ([] : Bytes).length ≠ 2 := by decide

theorem witness_packingInvertible : ([0xFF, 0x00] : Bytes).length = 2 := by decide

/-- Length 2 (no odd byte) and length 3 (one). -/
theorem witness_checksum_walk : 2 ≤ ([0xFF, 0xFF] : Bytes).length ∧ 2 ≤ ([0xFF, 0xFF, 0xFF] : Bytes).length := by
  decide

/-- C5 and C9: both of R151's zero results. -/
theorem witness_checksumExtremes :
    walkSum [0x00, 0x00] = 0 ∧ checksum [0x00, 0x00] = 0xFFFF ∧ walkSum [0xFF, 0xFF] = 0xFFFF ∧
    checksum [0xFF, 0xFF] = 0 := by decide

theorem witness_appendedChecksumVerifies :
    2 ≤ ([0x12, 0x34] : Bytes).length ∧ ([0x12, 0x34] : Bytes).length % 2 = 0 := by decide

theorem witness_buildDatagramResult :
    ((0 : Half) = 0) ∧ ((1 : Half) ≠ 0 ∧ ([] : Bytes) = []) ∧
    (65527 < (List.replicate 65528 (0 : Byte)).length ∧ (List.replicate 65528 (0 : Byte)).length < 2 ^ 32) ∧
    (1 ≤ (List.replicate 65527 (0 : Byte)).length ∧ (List.replicate 65527 (0 : Byte)).length ≤ 65527) ∧
    1 ≤ ([0xCC] : Bytes).length := by
  simp only [List.length_replicate]
  decide

theorem witness_parseDatagramResult :
    (wireAbc.take 7).length < 8 ∧ (badLength.length = 8 ∧ badLength.length ≠ beAt badLength 4) ∧
    (allZeroFields.length = beAt allZeroFields 4 ∧ beAt allZeroFields 2 = 0) ∧
    (headerOnly.length = 8 ∧ headerOnly.length = beAt headerOnly 4 ∧ beAt headerOnly 2 ≠ 0) := by decide

/-- D10: the checksum field is not the payload's checksum; and the longest payload. -/
theorem witness_decodeTrustsChecksumField :
    ((2 : Half) ≠ 0) ∧ ([0xCC] : Bytes).length ≤ 65527 ∧ (0x1234 : Half) ≠ checksum [0xCC] ∧
    (List.replicate 65527 (0 : Byte)).length ≤ 65527 := by
  simp only [List.length_replicate]
  decide

theorem witness_decodedLengthAgrees :
    (parseDatagram wireAbc).result = .ok ⟨0x1234, 0x50, 0xB, 0x3B9D, abc⟩ ∧ 8 ≤ badLength.length ∧
    beAt badLength 4 ≠ badLength.length ∧ 65535 < (List.replicate 65536 (0 : Byte)).length := by
  simp only [List.length_replicate]
  decide

theorem witness_encodeThenDecode :
    ((1 : Half) ≠ 0) ∧ 1 ≤ ([0xCC] : Bytes).length ∧ (List.replicate 65527 (0 : Byte)).length ≤ 65527 := by
  simp only [List.length_replicate]
  decide

theorem witness_decodeThenEncode :
    (parseDatagram wireAbc).result = .ok ⟨0x1234, 0x50, 0xB, 0x3B9D, abc⟩ ∧ abc ≠ [] ∧
    (0x3B9D : Half) = checksum abc := by decide

theorem witness_errorNotifiedJustBeforeReturn :
    (buildDatagram 5 0 [0x78]).result = .error .invalidDstPort 0 0 ∧
    (parseDatagram badLength).result = .error .lengthMismatch 7 8 ∧
    (buildDatagram 0x1234 0x50 abc).result = .ok wireAbc ∧
    (parseDatagram wireAbc).result = .ok ⟨0x1234, 0x50, 0xB, 0x3B9D, abc⟩ := by decide

theorem witness_shellErrorIsSilent :
    (nextOf (writeCmd 0x12 State.reset)).map (fun t => Status.err t.status) = some 7 ∧
    (nextOf (writeCmd 3 (unloaded smallBlock 0 17))).map (fun t => Status.err t.status) = some 6 := by decide

theorem witness_decoderTotalAndExact :
    decode 3 = .ok .parse ∧ encode .parse = 3 ∧ ¬ legalWord 0 ∧ ¬ legalWord 4 ∧ ¬ legalWord 0x80000001 := by
  unfold legalWord
  decide

theorem witness_stepRunsTheDecodedCommand :
    (commanding (loaded smallBlock 0 0 abc) 1).pending = [.access (.w32 smallBlock.base 1)] ∧
    decode 1 = .ok .csum := by decide

theorem witness_illegalCommandEffect :
    (commanding State.reset 0).pending = [.access (.w32 State.reset.cfg.base 0)] ∧ ¬ legalWord 0 ∧
    ¬ legalWord 4 ∧ ¬ legalWord 0xFFFFFFFF := by
  unfold legalWord
  decide

/-- One above `IN_CAP`, in the small block and in the standard one. -/
theorem witness_inputLengthTooBig :
    (unloaded smallBlock 0 17).cfg.inCap < (unloaded smallBlock 0 17).inLen.toNat ∧
    (unloaded Config.standard 0 0x10001).cfg.inCap < (unloaded Config.standard 0 0x10001).inLen.toNat := by
  decide

theorem loaded_abc_written : (loaded smallBlock 0 0 abc).inputWritten 3 := by
  unfold State.inputWritten
  decide

theorem witness_snapshotIsTheInput :
    (loaded smallBlock 0 0 abc).inLen.toNat = 3 ∧ (loaded smallBlock 0 0 abc).inBuf.read 2 = some 0x63 ∧
    (loaded smallBlock 0 0 abc).inputWritten 3 :=
  ⟨by decide, by decide, loaded_abc_written⟩

/-- Two bytes of the input, the first and the last, that nothing wrote. -/
theorem witness_unwrittenInputIsDrawn :
    (unloaded smallBlock 0 16).inLen.toNat = 16 ∧ (unloaded smallBlock 0 16).inBuf.read 0 = none ∧
    (unloaded smallBlock 0 16).inBuf.read 15 = none := by decide

/-- IN_LEN at `IN_CAP` and one above. -/
theorem witness_csumEffect :
    (unloaded smallBlock 0 16).inLen.toNat ≤ smallBlock.inCap ∧
    smallBlock.inCap < (unloaded smallBlock 0 17).inLen.toNat := by decide

/-- BUILD's checks, each just past and just before its edge; a port whose low half is 0 counts as 0. -/
theorem witness_buildEffect :
    smallBlock.inCap < (unloaded smallBlock 0 17).inLen.toNat ∧
    dstOf (unloaded smallBlock 0x10000 1) = 0 ∧
    (dstOf (unloaded smallBlock 9 0) ≠ 0 ∧ (unloaded smallBlock 9 0).inLen.toNat = 0) ∧
    (dstOf (unloaded Config.standard 9 65528) ≠ 0 ∧ 65527 < (unloaded Config.standard 9 65528).inLen.toNat ∧
      (unloaded Config.standard 9 65528).inLen.toNat ≤ Config.standard.inCap) ∧
    (dstOf (unloaded Config.standard 9 65527) ≠ 0 ∧
      1 ≤ (unloaded Config.standard 9 65527).inLen.toNat ∧
      (unloaded Config.standard 9 65527).inLen.toNat ≤ 65527) ∧
    1 ≤ (unloaded smallBlock 9 1).inLen.toNat := by decide

theorem witness_parseEffect :
    smallBlock.inCap < (unloaded smallBlock 0 17).inLen.toNat ∧
    (unloaded smallBlock 0 7).inLen.toNat < 8 ∧
    (8 ≤ (loaded smallBlock 0 0 badLength).inLen.toNat ∧
      beAt (inputOf (loaded smallBlock 0 0 badLength)) 4 ≠ (loaded smallBlock 0 0 badLength).inLen.toNat) ∧
    (beAt (inputOf (loaded smallBlock 0 0 allZeroFields)) 4 =
        (loaded smallBlock 0 0 allZeroFields).inLen.toNat ∧
      beAt (inputOf (loaded smallBlock 0 0 allZeroFields)) 2 = 0) ∧
    ((loaded smallBlock 0 0 headerOnly).inLen.toNat = 8 ∧
      beAt (inputOf (loaded smallBlock 0 0 headerOnly)) 4 = (loaded smallBlock 0 0 headerOnly).inLen.toNat ∧
      beAt (inputOf (loaded smallBlock 0 0 headerOnly)) 2 ≠ 0) := by decide

/-- One state for each result of the chain: 7, 6, then BUILD's 1, 2 and 0, then PARSE's 4, 3, 1 and 0, and CSUM's. -/
theorem witness_firstFailingCheckIsReported :
    [commanding State.reset 0, commanding (unloaded smallBlock 0 17) 2,
      commanding (loaded smallBlock 0 0 abc) 2, commanding (unloaded smallBlock 9 0) 2,
      commanding (loaded smallBlock 0 9 abc) 2, commanding (unloaded smallBlock 0 7) 3,
      commanding (loaded smallBlock 0 0 badLength) 3, commanding (loaded smallBlock 0 0 allZeroFields) 3,
      commanding (loaded smallBlock 0 0 headerOnly) 3, commanding (loaded smallBlock 0 0 abc) 1].map
        (fun s => (nextOf (step s)).map (fun t => (Status.err t.status).toNat)) =
      [7, 6, 1, 2, 0, 4, 3, 1, 0, 0].map some := by decide

/-- A command that stores, at the first byte it does not store to, and one that stores nothing. -/
theorem witness_commandFrame :
    exec .build (loaded smallBlock 0x1234 0x50 abc) = .next built ∧ built.outLen.toNat ≤ 11 ∧
    exec .csum built = .next (afterCmd .csum built) := ⟨exec_built, by decide, rfl⟩

theorem witness_failureReturnsNoData :
    exec .build (unloaded smallBlock 0 0) = .next (afterCmd .build (unloaded smallBlock 0 0)) ∧
    Status.err (afterCmd .build (unloaded smallBlock 0 0)).status ≠ 0 := ⟨rfl, by decide⟩

theorem witness_statusAfterCommand :
    exec .parse (loaded smallBlock 0 0 allZeroFields) =
      .next (afterCmd .parse (loaded smallBlock 0 0 allZeroFields)) := rfl

/-- Two states that agree on the inputs alone: STATUS, OUT, the stream and the base differ. -/
theorem witness_resultsDependOnInputsOnly :
    let s := loaded smallBlock 0x1234 0x50 abc
    let s' := { s with
      cfg := { smallBlock with base := 0 }, status := 0x331, outLen := 9, outBuf := [(0, 7)],
      notes := [warnNote .srcPortZero] }
    s.cfg.inCap = s'.cfg.inCap ∧ s.srcPort = s'.srcPort ∧ s.dstPort = s'.dstPort ∧ s.inLen = s'.inLen ∧
    s.inputWritten 3 ∧ (∀ k, k < 3 → s.inBuf.read k = s'.inBuf.read k) ∧
    writeCmd 2 s = .next (afterCmd .build s) ∧ writeCmd 2 s' = .next (afterCmd .build s') := by
  exact ⟨rfl, rfl, rfl, rfl, loaded_abc_written, fun _ _ => rfl, rfl, rfl⟩

theorem witness_repeatedCommandRepeats :
    (loaded smallBlock 0x1234 0x50 abc).inputWritten 3 ∧
    exec .build (loaded smallBlock 0x1234 0x50 abc) = .next built :=
  ⟨loaded_abc_written, exec_built⟩

/-- The first register, the last one, and one with results in it. -/
theorem witness_registerReadAnswers :
    (0x000, 0) ∈ shown built ∧ (0x020, 0x3B9D) ∈ shown built ∧ (0x02C, 0) ∈ shown built ∧
    (facing built [.access (.r32 (built.cfg.base + 0x020))]).pending =
      [.access (.r32 (built.cfg.base + 0x020))] := by decide

theorem witness_registerWriteStores :
    [0x008, 0x00C, 0x010].map
        (fun o => (facing built [.access (.w32 (built.cfg.base + o) 0xABCD1234)]).pending) =
      [0x008, 0x00C, 0x010].map (fun o => [.access (.w32 (built.cfg.base + o) 0xABCD1234)]) := by decide

/-- The last mapped IN byte for a write, a written byte for a read. -/
theorem witness_inputByteAccess :
    smallBlock.Valid ∧ 15 < smallBlock.inCap ∧ 2 < smallBlock.inCap ∧
    (facing built [.access (.w8 (smallBlock.base + 0x10000 + 15) 1)]).pending =
      [.access (.w8 (built.cfg.base + 0x10000 + 15) 1)] ∧
    built.inBuf.read 2 = some 0x63 := by decide

/-- The first and the last byte below OUT_LEN. -/
theorem witness_outputByteRead :
    built.cfg.Valid ∧ 10 < built.cfg.outCap ∧ 10 < built.outLen.toNat ∧
    built.outBuf.read 0 = some 0x12 ∧ built.outBuf.read 10 = some 0x63 := by decide

/-- The first IN byte nothing wrote, and the first OUT byte at OUT_LEN. -/
theorem witness_undefinedByteReadIsFresh :
    built.cfg.Valid ∧ (3 < built.cfg.inCap ∧ built.inBuf.read 3 = none) ∧
    (11 < built.cfg.outCap ∧ built.outLen.toNat ≤ 11) := by decide

/-- R65 (a) to (g), each at an edge: the first offset past the registers, past IN, past OUT and past the windows;
widths 8, 32, 16; an odd address; a read-only register; OUT. -/
theorem witness_busErrorChangesNothing :
    (∀ o ∈ [0x030, 0x10010, 0x20018, 0x30000],
      ¬ regMapped o ∧ ¬ inMapped smallBlock o ∧ ¬ outMapped smallBlock o ∧
        smallBlock.Addresses (smallBlock.base + o)) ∧
    (width (.r8 0x4FFFF) = 8 ∧ 0x4FFFF - smallBlock.base < 0x10000) ∧
    (width (.w32 0x50000 0) ≠ 8 ∧ width (.w32 0x6FFFC 0) ≠ 8) ∧
    width (.other 16 true 0x40008) = 16 ∧
    (width (.r32 0x40002) = 32 ∧ (0x40002 - smallBlock.base) % 4 ≠ 0) ∧
    (isWrite (.w32 0x4002C 0) ∧ 0x4002C - smallBlock.base = 0x02C) ∧
    (isWrite (.w8 0x60000 0) ∧ 0x60000 - smallBlock.base = 0x20000) := by
  unfold regMapped inMapped outMapped isWrite
  decide

/-- A legal access, and accesses of widths no rule lists. -/
theorem witness_busErrorOnlyWhereListed :
    ¬ busErrorCase smallBlock (0x4002C - smallBlock.base) (.r32 0x4002C) ∧
    ¬ busErrorCase smallBlock (0x5000F - smallBlock.base) (.w8 0x5000F 0) ∧
    (Access.r32 0x4002C).wf = true ∧ smallBlock.Addresses 0x4002C ∧ smallBlock.Addresses 0x5000F ∧
    width (.other 64 false 0x40000) ≠ 8 ∧ width (.other 64 false 0x40000) ≠ 32 := by
  unfold busErrorCase regMapped inMapped outMapped isWrite
  decide

theorem witness_readsHaveNoSideEffect :
    (∃ t, step (facing built [.access (.r32 0x40004)]) = .next t) ∧
    (∃ t, step (facing built [.access (.r8 0x60000)]) = .next t) ∧
    (∃ t, step (facing built [.copyRead 1 0x60000]) = .next t) :=
  ⟨⟨_, rfl⟩, ⟨_, rfl⟩, ⟨_, rfl⟩⟩

theorem witness_resetEvent : (facing built [.reset]).pending = [.reset] := by decide

/-- An IN byte write, a CMD write and a read, each with its next state. -/
theorem witness_marks_and_notifications :
    (∃ t, step (facing built [.access (.w8 0x50000 1)]) = .next t) ∧ built.inBuf.written 0 = true ∧
    (∃ t, step (commanding (unloaded smallBlock 0 0) 2) = .next t) ∧
    (∃ t, step (facing built [.access (.r32 0x40004)]) = .next t) ∧
    Event.access (.w8 0x50000 1) ≠ .reset :=
  ⟨⟨_, rfl⟩, by decide, ⟨_, rfl⟩, ⟨_, rfl⟩, by decide⟩

/-- Each event that is an access, at the first address past the block. -/
theorem witness_stopsOnlyOutsideTheBlock :
    ¬ smallBlock.Addresses 0x80000 ∧
    step (facing built [.access (.r32 0x80000)]) = .refused .notTheBlock ∧
    step (facing built [.copyRead 1 0x80000]) = .refused .notTheBlock ∧
    step (facing built [.writeBack 1 0x80000]) = .refused .notTheBlock :=
  ⟨by decide, rfl, rfl, rfl⟩

theorem built_inv : built.Inv where
  cfg_valid := by decide
  status_reserved := by decide
  err_legal := by decide
  srcPort_low := by decide
  dstPort_low := by decide
  resSrc_low := by decide
  resDst_low := by decide
  resLen_low := by decide
  resCsum_low := by decide
  args_zero_on_success := fun _ => by decide
  results_zero_on_error := fun h => absurd (show Status.err built.status = 0 by decide) h
  in_wf := by decide
  in_within := by decide
  out_wf := by decide
  out_within := by decide
  outLen_le := by decide
  held_wf := by decide
  out_defined := show ∀ k, k < 11 → built.outBuf.written k = true by decide

/-- The events to come are no part of the invariant. -/
theorem facing_inv {s : State} (h : s.Inv) (es : List Event) : (facing s es).Inv := { h with }

theorem witness_stepKeepsInvariant :
    (commanding built 3).Inv ∧ ∃ t, step (commanding built 3) = .next t :=
  ⟨facing_inv built_inv _, ⟨_, rfl⟩⟩

theorem witness_everyAccessCompletes :
    (facing built [.access (.r32 0x40000), .copyRead 1 0x60000, .reset,
      .writeBack 1 0x7FFFF]).Answerable := by
  intro e he
  simp only [facing, State.setPending, List.mem_cons, List.not_mem_nil, or_false] at he
  rcases he with rfl | rfl | rfl | rfl
  · exact show smallBlock.Addresses 0x40000 by decide
  · exact show smallBlock.Addresses 0x60000 by decide
  · trivial
  · exact show smallBlock.Addresses 0x7FFFF by decide

/-- `n` at OUT_LEN, and none at all. -/
theorem witness_copybackCopiesOutput :
    built.Inv ∧ 11 ≤ built.outLen.toNat ∧ 11 ≤ built.cfg.inCap ∧ 0 ≤ built.outLen.toNat ∧
    built.pending = [] :=
  ⟨built_inv, by decide⟩

/-- Between host 1's read of OUT and its write: another host's read and copy-back, a command and a reset. -/
theorem witness_copybackWritesItsOwnByte :
    let mid : List Event := [.access (.r8 0x60001), .copyRead 2 0x60002, .access (.w32 0x40000 1), .reset]
    let s := facing built (.copyRead 1 0x60000 :: (mid ++ [.writeBack 1 (0x40000 + 0x10000 + 15)]))
    s.cfg.Valid ∧ 15 < s.cfg.inCap ∧
    (∀ e ∈ mid, e.answerable s.cfg ∧ ∀ a', e ≠ .copyRead 1 a') ∧
    ∃ u, step s = .next u ∧ u.responses = s.responses ++ [.data8 0x12] := by
  refine ⟨by decide, by decide, ?_, _, rfl, by decide⟩
  intro e he
  simp only [List.mem_cons, List.not_mem_nil, or_false] at he
  rcases he with rfl | rfl | rfl | rfl
  · exact ⟨show smallBlock.Addresses 0x60001 by decide, by simp⟩
  · exact ⟨show smallBlock.Addresses 0x60002 by decide, by simp⟩
  · exact ⟨show smallBlock.Addresses 0x40000 by decide, by simp⟩
  · exact ⟨trivial, by simp⟩

/-- The first offset past OUT. -/
theorem witness_copybackAfterBusErrorGoesOn :
    built.cfg.Valid ∧ 15 < built.cfg.inCap ∧ built.cfg.Addresses 0x60018 ∧
    busErrorCase built.cfg (0x60018 - built.cfg.base) (.r8 0x60018) ∧
    (facing built [.copyRead 1 0x60018, .writeBack 1 (built.cfg.base + 0x10000 + 15)]).pending =
      [.copyRead 1 0x60018, .writeBack 1 (built.cfg.base + 0x10000 + 15)] := by
  refine ⟨by decide, by decide, by decide, .inl ?_, by decide⟩
  unfold regMapped inMapped outMapped
  decide

/-- BUILD of "abc", and the state in which its eleven bytes are the input. -/
theorem witness_shellRoundTrip :
    exec .build (loaded smallBlock 0x1234 0x50 abc) = .next built ∧ Status.err built.status = 0 ∧
    (loaded smallBlock 0 0 wireAbc).inLen = built.outLen ∧ built.outLen.toNat ≤ smallBlock.inCap ∧
    ∀ k, k < built.outLen.toNat → (loaded smallBlock 0 0 wireAbc).inBuf.read k = built.outBuf.read k := by
  refine ⟨exec_built, by decide, by decide, by decide, ?_⟩
  exact show ∀ k, k < 11 → _ by decide

/-- PARSE of B1's bytes, and the state in which its payload is the input. -/
theorem witness_hostCanVerifyChecksum :
    exec .parse (loaded smallBlock 0 0 wireAbc) = .next parsed ∧ Status.err parsed.status = 0 ∧
    (loaded smallBlock 0 0 abc).inLen = parsed.outLen ∧ parsed.outLen.toNat ≤ smallBlock.inCap ∧
    ∀ k, k < parsed.outLen.toNat → (loaded smallBlock 0 0 abc).inBuf.read k = parsed.outBuf.read k := by
  refine ⟨exec_parsed, by decide, by decide, by decide, ?_⟩
  exact show ∀ k, k < 3 → _ by decide

end Sys2Proof.Tests
end

section
/-! SUPPORT. The frame rules and the invariant's rules of the state family (10_state.md), then the theorems that
settle O12, O31, O42 and O46. -/

/-! ## OUT and IN under the memory operations -/

namespace Sys2Proof.Machine.Memory

/-- A written-mark stays set under a write to any index (R39). -/
theorem written_write {m : Memory} {j : Nat} (k : Nat) (b : Byte) (h : m.written j = true) :
    (write k b m).written j = true := by
  unfold written at *
  by_cases hj : j = k
  · rw [hj, read_write_same, Option.isSome_some]
  · rwa [read_write_other _ _ hj]

/-- Consecutive writes from index 0 are read back as the bytes written, whatever stood there before. -/
theorem read_writeFrom_zero {bs : Bytes} {k : Nat} (m : Memory) (h : k < bs.length) :
    Memory.read k (writeFrom 0 bs m) = bs[k]? := by
  rw [read_writeFrom, if_pos (by omega), Nat.sub_zero]

/-- Consecutive writes from index 0 give every index below their number a value. -/
theorem written_writeFrom_zero {bs : Bytes} {k : Nat} (m : Memory) (h : k < bs.length) :
    (writeFrom 0 bs m).written k = true := by
  rw [written, read_writeFrom_zero m h, List.getElem?_eq_getElem h, Option.isSome_some]

end Sys2Proof.Machine.Memory

/-! ## What changes IN (20_memory.md R66, R74) -/

namespace Sys2Proof.Machine

/-- No command changes IN. -/
theorem exec_inBuf {i : Instr} {s t : State} (h : exec i s = .next t) : t.inBuf = s.inBuf := by
  cases exec_ran h with
  | tooLong _ ht => rw [ht]
  | failed _ _ _ _ _ _ _ _ ht => rw [ht]
  | ok _ _ _ _ _ _ _ _ _ _ _ ht => rw [ht]

/-- An answered access leaves IN as it was or writes one byte of it. -/
theorem Answered.inBuf_cases {s t : State} (h : Answered s t) :
    t.inBuf = s.inBuf ∨ ∃ k v, t.inBuf = Memory.write k v s.inBuf := by
  cases h with
  | inByte k v _ ht => exact .inr ⟨k, v, by rw [ht]; rfl⟩
  | command i u hu ht => exact .inl (by rw [ht, State.respond_inBuf, exec_inBuf hu])
  | answer r ht => exact .inl (by rw [ht]; rfl)
  | byte b d _ ht => exact .inl (by rw [ht]; rfl)
  | srcPort v ht => exact .inl (by rw [ht]; rfl)
  | dstPort v ht => exact .inl (by rw [ht]; rfl)
  | inLen v ht => exact .inl (by rw [ht]; rfl)
  | illegal v ht => exact .inl (by rw [ht]; rfl)

/-- An answered access clears no written-mark. -/
theorem Answered.written {s t : State} {k : Nat} (h : Answered s t) (hk : s.inBuf.written k = true) :
    t.inBuf.written k = true := by
  rcases h.inBuf_cases with ht | ⟨j, v, ht⟩ <;> rw [ht]
  · exact hk
  · exact Memory.written_write j v hk

@[simp] theorem read32_inBuf (o : Nat) (s : State) : (read32 o s).inBuf = s.inBuf := by
  unfold read32
  split
  · rfl
  · split <;> rfl

@[simp] theorem read8_inBuf (o : Nat) (s : State) : (read8 o s).inBuf = s.inBuf := by
  unfold read8
  split
  · rfl
  · split <;> rfl
  · rfl

/-- A CMD write, of whatever word, leaves IN as it was. -/
theorem writeCmd_inBuf {v : Word} {s t : State} (h : writeCmd v s = .next t) : t.inBuf = s.inBuf := by
  rcases writeCmd_next v s with ⟨i, u, -, hu, hw⟩ | ⟨e, -, hw⟩ <;> rw [hw] at h <;> cases h
  · exact exec_inBuf hu
  · rfl

theorem write32_inBuf {o : Nat} {v : Word} {s t : State} (h : write32 o v s = .next t) :
    t.inBuf = s.inBuf := by
  unfold write32 at h
  split at h
  · cases h; rfl
  · split at h
    · cases hu : writeCmd v s with
      | next u =>
        rw [hu] at h
        cases h
        rw [State.respond_inBuf, writeCmd_inBuf hu]
      | fault r => rw [hu] at h; cases h
      | refused r => rw [hu] at h; cases h
    all_goals cases h; rfl

/-- Every access but an 8-bit write leaves IN as it was. -/
theorem runAccess_inBuf {a : Access} {s t : State} (h : runAccess a s = .next t)
    (ha : ∀ x v, a ≠ .w8 x v) : t.inBuf = s.inBuf := by
  unfold runAccess at h
  split at h
  · cases a with
    | r32 x => cases h; exact read32_inBuf _ s
    | w32 x v => exact write32_inBuf h
    | r8 x => cases h; exact read8_inBuf _ s
    | w8 x v => exact absurd rfl (ha x v)
    | other bits w x => cases h; rfl
  · cases h

/-- The keeping of an answer is the host's: the block's IN stays. -/
@[simp] theorem keepAnswer_inBuf (host : Nat) (s : State) : (keepAnswer host s).inBuf = s.inBuf := by
  rcases keepAnswer_cases host s with ⟨b, -, h⟩ | ⟨-, h⟩ <;> rw [h] <;> rfl

end Sys2Proof.Machine

/-! ## The rules of the invariant -/

namespace Sys2Proof.Machine

/-- A 16-bit value stored in a register has no bit above its low half. -/
theorem lowHalf_setWidth (v : Half) : lowHalf (v.setWidth 32) := by
  have := v.isLt
  apply BitVec.eq_of_toNat_eq
  rw [BitVec.toNat_and, BitVec.toNat_setWidth, Nat.mod_eq_of_lt (by omega)]
  exact (Nat.and_two_pow_sub_one_eq_mod _ 16).trans (Nat.mod_eq_of_lt this)

/-- A masked word has no bit above its low half. -/
theorem lowHalf_and (v : Word) : lowHalf (v &&& 0xFFFF) := by
  rw [lowHalf, BitVec.and_assoc, BitVec.and_self]

namespace State.Inv

variable {s : State} (h : s.Inv)
include h

theorem respond (r : Response) : (s.respond r).Inv := { h with }

theorem setDraws (d : Nat) : (s.setDraws d).Inv := { h with }

theorem setPending (es : List Event) : (s.setPending es).Inv := { h with }

theorem setInLen (v : Word) : (s.setInLen v).Inv := { h with }

theorem setSrcPort (v : Word) : (s.setSrcPort (v &&& 0xFFFF)).Inv :=
  { h with srcPort_low := lowHalf_and v }

theorem setDstPort (v : Word) : (s.setDstPort (v &&& 0xFFFF)).Inv :=
  { h with dstPort_low := lowHalf_and v }

theorem setHeld {m : Memory} (hm : m.wf) : (s.setHeld m).Inv := { h with held_wf := hm }

/-- R66: a byte write inside IN's capacity. -/
theorem writeIn {k : Nat} (v : Byte) (hk : k < s.cfg.inCap) :
    (s.setInBuf (Memory.write k v s.inBuf)).Inv :=
  { h with
    in_wf := Memory.write_wf k v h.in_wf
    in_within := Memory.write_within k v h.in_within hk }

/-- R246: whatever the arguments, a failure commit with an error code of R240 keeps the invariant. -/
theorem failed {st : Word} (hst : Status.reservedClear st) {c : Code} (hlo : 1 ≤ c.num.toNat)
    (hhi : c.num.toNat ≤ 7) (a0 a1 : Word) (ns : List Notification) (d : Nat) :
    State.Inv { s with
      status := Status.setErr st c.num, errArg0 := a0, errArg1 := a1,
      resSrc := 0, resDst := 0, resLen := 0, resCsum := 0, outLen := 0, notes := ns, draws := d } :=
  have herr : Status.err (Status.setErr st c.num) = c.num := Status.err_setErr st c.num
  { h with
    status_reserved := Status.reservedClear_setErr c.num hst
    err_legal := (congrArg BitVec.toNat herr).trans_le hhi
    resSrc_low := BitVec.zero_and
    resDst_low := BitVec.zero_and
    resLen_low := BitVec.zero_and
    resCsum_low := BitVec.zero_and
    args_zero_on_success := fun h0 => by
      rw [← herr, show Status.err (Status.setErr st c.num) = 0 from h0] at hlo
      exact absurd hlo (by decide)
    results_zero_on_error := fun _ => ⟨rfl, rfl, rfl, rfl, rfl⟩
    outLen_le := Nat.zero_le _
    out_defined := fun k hk => absurd hk (Nat.not_lt_zero k) }

end State.Inv

/-- What the invariant asks of OUT and OUT_LEN (R37, R40). -/
structure OutGood (cap : Nat) (m : Memory) (l : Word) : Prop where
  wf : m.wf
  within : m.within cap
  len_le : l.toNat ≤ cap
  defined : ∀ k, k < l.toNat → m.written k = true

/-- Bytes stored from index 0, no more than the capacity, with their number in OUT_LEN. -/
theorem outGood_writeFrom {cap : Nat} {m : Memory} {b : Bytes} (hwf : m.wf) (hin : m.within cap)
    (hcap : cap ≤ 65536) (hb : b.length ≤ cap) :
    OutGood cap (Memory.writeFrom 0 b m) (BitVec.ofNat 32 b.length) := by
  have hl : (BitVec.ofNat 32 b.length).toNat = b.length := by
    rw [BitVec.toNat_ofNat]
    omega
  exact
    { wf := Memory.writeFrom_wf 0 b hwf
      within := Memory.writeFrom_within 0 b hin (by omega)
      len_le := by omega
      defined := fun k hk => Memory.written_writeFrom_zero m (by omega) }

/-- What a successful command stores fits in OUT, by R8's bound of `OUT_CAP` against `IN_CAP`. -/
theorem Stores.outGood {s : State} {i : Instr} {b : Bytes} {m : Memory} {l : Word}
    (hs : Stores s i b m l) (h : s.Inv) (hf : lengthFits s) : OutGood s.cfg.outCap m l := by
  obtain ⟨-, hin, hout, hcap, -⟩ := h.cfg_valid
  unfold lengthFits at hf
  unfold Config.maxPayload at hout
  cases hs with
  | csum => exact ⟨h.out_wf, h.out_within, Nat.zero_le _, fun k hk => absurd hk (Nat.not_lt_zero k)⟩
  | build _ hlen hmax => exact outGood_writeFrom h.out_wf h.out_within hcap (by omega)
  | parse _ hlen hmax => exact outGood_writeFrom h.out_wf h.out_within hcap (by omega)

/-- A success, with no error, 16-bit results and a good OUT, keeps the invariant. -/
theorem State.Inv.succeeded {s : State} (h : s.Inv) {st : Word} (hst : Status.reservedClear st)
    (herr : Status.err st = 0) (src dst len csum : Half) {m : Memory} {l : Word}
    (ho : OutGood s.cfg.outCap m l) (ns : List Notification) (d : Nat) :
    State.Inv { s with
      status := st, errArg0 := 0, errArg1 := 0,
      resSrc := src.setWidth 32, resDst := dst.setWidth 32, resLen := len.setWidth 32,
      resCsum := csum.setWidth 32, outBuf := m, outLen := l, notes := ns, draws := d } :=
  { h with
    status_reserved := hst
    err_legal := herr ▸ Nat.zero_le 7
    resSrc_low := lowHalf_setWidth src
    resDst_low := lowHalf_setWidth dst
    resLen_low := lowHalf_setWidth len
    resCsum_low := lowHalf_setWidth csum
    args_zero_on_success := fun _ => ⟨rfl, rfl⟩
    results_zero_on_error := fun h0 => absurd herr h0
    out_wf := ho.wf
    out_within := ho.within
    outLen_le := ho.len_le
    out_defined := ho.defined }

/-- Every command keeps the invariant: each of its three endings does. -/
theorem exec_keeps_inv {i : Instr} {s t : State} (h : s.Inv) (hx : exec i s = .next t) : t.Inv := by
  have hstart := Status.reservedClear_start i.opcode
  cases exec_ran hx with
  | tooLong _ ht =>
    rw [ht]
    exact h.failed hstart (by decide) (by decide) _ _ _ _
  | failed _ ws c a0 a1 _ hlo hhi ht =>
    rw [ht]
    exact h.failed (Status.reservedClear_afterNotes _ hstart) hlo (by omega) _ _ _ _
  | ok hf ns _ src dst len csum b m l hs ht =>
    rw [ht]
    exact h.succeeded (Status.reservedClear_afterNotes _ hstart) (by simp) src dst len csum
      (hs.outGood h hf) _ _

theorem illegalCommand_keeps_inv {s : State} (h : s.Inv) (v : Word) : (illegalCommand v s).Inv := by
  rw [illegalCommand_eq]
  exact h.failed (Status.reservedClear_start _) (by decide) (by decide) _ _ _ _

/-- Every answered access keeps the invariant. -/
theorem Answered.keeps_inv {s t : State} (ha : Answered s t) (h : s.Inv) : t.Inv := by
  cases ha with
  | answer r ht => exact ht ▸ h.respond r
  | byte b d _ ht => exact ht ▸ (h.setDraws d).respond _
  | srcPort v ht => exact ht ▸ (h.setSrcPort v).respond _
  | dstPort v ht => exact ht ▸ (h.setDstPort v).respond _
  | inLen v ht => exact ht ▸ (h.setInLen v).respond _
  | inByte k v hk ht => exact ht ▸ (h.writeIn v hk).respond _
  | command i u hu ht => exact ht ▸ (exec_keeps_inv h hu).respond _
  | illegal v ht => exact ht ▸ (illegalCommand_keeps_inv h v).respond _

theorem keepAnswer_keeps_inv {s : State} (h : s.Inv) (host : Nat) : (keepAnswer host s).Inv := by
  rcases keepAnswer_cases host s with ⟨b, -, hk⟩ | ⟨-, hk⟩ <;> rw [hk]
  · exact h.setHeld (Memory.write_wf host b h.held_wf)
  · exact h.setHeld (Memory.erase_wf host h.held_wf)

/-- R280: after reset the invariant rests only on the fields that reset keeps. -/
theorem resetBlock_keeps_inv {s : State} (h : s.Inv) : (resetBlock s).Inv where
  cfg_valid := h.cfg_valid
  status_reserved := BitVec.zero_and
  err_legal := Nat.zero_le 7
  srcPort_low := BitVec.zero_and
  dstPort_low := BitVec.zero_and
  resSrc_low := BitVec.zero_and
  resDst_low := BitVec.zero_and
  resLen_low := BitVec.zero_and
  resCsum_low := BitVec.zero_and
  args_zero_on_success := fun _ => ⟨rfl, rfl⟩
  results_zero_on_error := fun _ => ⟨rfl, rfl, rfl, rfl, rfl⟩
  in_wf := List.Pairwise.nil
  in_within := fun _ hc => absurd hc List.not_mem_nil
  out_wf := List.Pairwise.nil
  out_within := fun _ hc => absurd hc List.not_mem_nil
  outLen_le := Nat.zero_le _
  held_wf := h.held_wf
  out_defined := fun k hk => absurd hk (Nat.not_lt_zero k)

end Sys2Proof.Machine

/-! ## When the decode's length check fails (43_decode.md R203, R207) -/

namespace Sys2Proof.Machine

open Sys2Proof.Claims

/-- A big-endian field is a 16-bit number. -/
theorem beAt_le (b : Bytes) (i : Nat) : beAt b i ≤ 65535 := by
  have hhi := (b.getD i 0).isLt
  have hlo := (b.getD (i + 1) 0).isLt
  unfold beAt byteAt
  omega

/-- Only check 1 of R203 answers LENGTH_MISMATCH. -/
theorem checkFields_lengthMismatch_iff (n : Nat) (g : Datagram) :
    (∃ a0 a1, (checkFields n g).result = .error .lengthMismatch a0 a1) ↔ g.length.toNat ≠ n := by
  by_cases hn : n = g.length.toNat
  · by_cases hd : g.destinationPort = 0
    · rw [checkFields_noPort hn hd]
      simp [fatal, hn]
    · rw [checkFields_pass hn hd]
      simp [hn]
  · simp [checkFields_mismatch hn, fatal, Ne.symm hn]

/-- A sequence that holds a header fails with LENGTH_MISMATCH exactly when its length field is not its size. -/
theorem parseDatagram_lengthMismatch_iff {b : Bytes} (h : 8 ≤ b.length) :
    (∃ a0 a1, (parseDatagram b).result = .error .lengthMismatch a0 a1) ↔ beAt b 4 ≠ b.length := by
  obtain ⟨s0, s1, d0, d1, l0, l1, c0, c1, data, rfl⟩ := exists_header h
  have hfield : beAt (s0 :: s1 :: d0 :: d1 :: l0 :: l1 :: c0 :: c1 :: data) 4 = (word16 l0 l1).toNat :=
    (word16_toNat l0 l1).symm
  rw [hfield]
  exact checkFields_lengthMismatch_iff _ _

end Sys2Proof.Machine

/-! ## What a command's results depend on (10_state.md R26) -/

namespace Sys2Proof.Machine

open Sys2Proof.Claims

/-- The inputs of a command (R26): the ports, IN_LEN, `IN_CAP` and the input bytes. -/
structure SameInput (s s' : State) : Prop where
  inCap : s.cfg.inCap = s'.cfg.inCap
  srcPort : s.srcPort = s'.srcPort
  dstPort : s.dstPort = s'.dstPort
  inLen : s.inLen = s'.inLen
  bytes : inputOf s = inputOf s'

/-- What R26 says of two runs, from `s` to `t` and from `s'` to `t'`: the same registers, the same OUT below OUT_LEN
and the same notifications appended. -/
structure SameEffect (s s' t t' : State) : Prop where
  regs : resultRegs t = resultRegs t'
  out : ∀ k, k < t.outLen.toNat → t.outBuf.read k = t'.outBuf.read k
  notes : ∃ ns, t.notes = s.notes ++ ns ∧ t'.notes = s'.notes ++ ns

/-- States whose written input bytes agree take the same snapshot: no byte of it is drawn. -/
theorem inputOf_eq_of_written {s s' : State} (hlen : s.inLen = s'.inLen)
    (hw : s.inputWritten s.inLen.toNat)
    (hb : ∀ k, k < s.inLen.toNat → s.inBuf.read k = s'.inBuf.read k) : inputOf s = inputOf s' := by
  have hw' : ∀ k, k < s'.inLen.toNat → s'.inBuf.written k = true := fun k hk => by
    rw [← hlen] at hk
    rw [Memory.written, ← hb k hk]
    exact hw k hk
  apply List.ext_getElem?
  intro k
  by_cases hk : k < s.inLen.toNat
  · rw [(inputTaken_written s hw).2 k hk, (inputTaken_written s' hw').2 k (hlen ▸ hk), hb k hk]
  · rw [List.getElem?_eq_none (by simpa using hk), List.getElem?_eq_none (by simpa [← hlen] using hk)]

/-- Two runs that leave the same registers, show no OUT byte and emit nothing agree. -/
theorem SameEffect.of_silent {s s' t t' : State} (hregs : resultRegs t = resultRegs t')
    (hout : t.outLen = 0) (hn : t.notes = s.notes) (hn' : t'.notes = s'.notes) :
    SameEffect s s' t t' where
  regs := hregs
  out := fun k hk => by
    rw [hout] at hk
    exact absurd hk (Nat.not_lt_zero k)
  notes := ⟨[], by rw [hn, List.append_nil], by rw [hn', List.append_nil]⟩

/-- Two failure commits with the same error agree. -/
theorem sameEffect_failed (s s' : State) (st a0 a1 : Word) (ns : List Notification) (d d' : Nat) :
    SameEffect s s' (failed st a0 a1 ns d s) (failed st a0 a1 ns d' s') where
  regs := rfl
  out := fun k hk => absurd hk (Nat.not_lt_zero k)
  notes := ⟨ns, rfl, rfl⟩

/-- R93's commit depends on the word alone. -/
theorem illegalCommand_sameEffect (v : Word) (s s' : State) :
    SameEffect s s' (illegalCommand v s) (illegalCommand v s') :=
  .of_silent rfl rfl rfl rfl

/-- Two successes that write the same STATUS, results and OUT bytes agree. -/
theorem sameEffect_stored (s s' : State) (st src dst len csum : Word) (b : Bytes)
    (ns : List Notification) (d d' : Nat) :
    SameEffect s s'
      { s with
        status := st, errArg0 := 0, errArg1 := 0,
        resSrc := src, resDst := dst, resLen := len, resCsum := csum,
        outBuf := Memory.writeFrom 0 b s.outBuf, outLen := BitVec.ofNat 32 b.length,
        notes := s.notes ++ ns, draws := d }
      { s' with
        status := st, errArg0 := 0, errArg1 := 0,
        resSrc := src, resDst := dst, resLen := len, resCsum := csum,
        outBuf := Memory.writeFrom 0 b s'.outBuf, outLen := BitVec.ofNat 32 b.length,
        notes := s'.notes ++ ns, draws := d' } where
  regs := rfl
  out := fun k hk => by
    have hb : k < b.length := Nat.lt_of_lt_of_le hk (by simpa using Nat.mod_le _ _)
    simp only [Memory.read_writeFrom_zero _ hb]
  notes := ⟨ns, rfl, rfl⟩

variable {s s' t t' : State}

theorem execCsum_sameEffect (hi : SameInput s s') (hf : lengthFits s) (hf' : lengthFits s')
    (h : exec .csum s = .next t) (h' : exec .csum s' = .next t') : SameEffect s s' t t' := by
  rw [exec_csum hf] at h
  rw [exec_csum hf', ← hi.bytes] at h'
  cases h
  cases h'
  exact .of_silent rfl rfl rfl rfl

theorem execBuild_sameEffect (hi : SameInput s s') (hf : lengthFits s) (hf' : lengthFits s')
    (h : exec .build s = .next t) (h' : exec .build s' = .next t') : SameEffect s s' t t' := by
  have hsrc : srcOperand s' = srcOperand s := by rw [srcOperand, srcOperand, hi.srcPort]
  have hdst : dstOperand s' = dstOperand s := by rw [dstOperand, dstOperand, hi.dstPort]
  have hsame : buildDatagram (srcOperand s') (dstOperand s') (inputOf s') =
      buildDatagram (srcOperand s) (dstOperand s) (inputOf s) := by rw [hsrc, hdst, hi.bytes]
  rcases buildDatagram_shape (srcOperand s) (dstOperand s) (inputOf s) with
    ⟨ws, c, a0, a1, he, -, -, -⟩ | ⟨ns, b, he, -⟩
  · rw [exec_build_error hf he] at h
    rw [exec_build_error hf' (hsame.trans he)] at h'
    cases h
    cases h'
    exact sameEffect_failed _ _ _ _ _ _ _ _
  · rw [exec_build_ok hf he] at h
    rw [exec_build_ok hf' (hsame.trans he), hsrc, hdst, ← hi.bytes] at h'
    cases h
    cases h'
    exact sameEffect_stored _ _ _ _ _ _ _ _ _ _ _

theorem execParse_sameEffect (hi : SameInput s s') (hf : lengthFits s) (hf' : lengthFits s')
    (h : exec .parse s = .next t) (h' : exec .parse s' = .next t') : SameEffect s s' t t' := by
  rcases parseDatagram_shape (inputOf s) with ⟨ws, c, a0, a1, he, -, -, -⟩ | ⟨ns, g, he, -⟩
  · rw [exec_parse_error hf he] at h
    rw [exec_parse_error hf' (hi.bytes ▸ he)] at h'
    cases h
    cases h'
    exact sameEffect_failed _ _ _ _ _ _ _ _
  · rw [exec_parse_ok hf he] at h
    rw [exec_parse_ok hf' (hi.bytes ▸ he)] at h'
    cases h
    cases h'
    exact sameEffect_stored _ _ _ _ _ _ _ _ _ _ _

/-- R26 for a legal command, its length check (R94) among what agrees. -/
theorem exec_sameEffect {i : Instr} (hi : SameInput s s') (h : exec i s = .next t)
    (h' : exec i s' = .next t') : SameEffect s s' t t' := by
  have hfits : lengthFits s ↔ lengthFits s' := by
    rw [lengthFits, lengthFits, hi.inLen, hi.inCap]
  by_cases hf : lengthFits s
  · cases i with
    | csum => exact execCsum_sameEffect hi hf (hfits.1 hf) h h'
    | build => exact execBuild_sameEffect hi hf (hfits.1 hf) h h'
    | parse => exact execParse_sameEffect hi hf (hfits.1 hf) h h'
  · rw [exec_tooLong i hf] at h
    rw [exec_tooLong i (mt hfits.2 hf), ← hi.inLen, ← hi.inCap] at h'
    cases h
    cases h'
    exact .of_silent rfl rfl rfl rfl

/-- R26 for every word written to CMD. -/
theorem writeCmd_sameEffect {v : Word} (hi : SameInput s s') (h : writeCmd v s = .next t)
    (h' : writeCmd v s' = .next t') : SameEffect s s' t t' := by
  unfold writeCmd at h h'
  cases hd : decode v with
  | ok i =>
    rw [hd] at h h'
    exact exec_sameEffect hi h h'
  | error e =>
    rw [hd] at h h'
    cases h
    cases h'
    exact illegalCommand_sameEffect v s s'

end Sys2Proof.Machine

/-! ## The obligations -/

namespace Sys2Proof.Proofs

open Sys2Proof.Machine Sys2Proof.Claims

/-- Settles O46: each case of a step is a reset, or an answered access under the model's own bookkeeping. -/
theorem stepKeepsInvariant : Obligations.StepKeepsInvariant := by
  intro s t h hstep
  rcases step_cases hstep with ⟨-, ht⟩ | ⟨rest, -, ht⟩ | ⟨_, rest, -, ha⟩ |
    ⟨host, _, rest, u, -, -, ha, ht⟩ | ⟨_, _, rest, d, -, -, ha⟩
  · exact ht ▸ h
  · exact ht ▸ resetBlock_keeps_inv (h.setPending rest)
  · exact ha.keeps_inv (h.setPending rest)
  · exact ht ▸ keepAnswer_keeps_inv (ha.keeps_inv (h.setPending rest)) host
  · exact ha.keeps_inv ((h.setPending rest).setDraws d)

/-- Settles O12: a 16-bit length field cannot hold the size of a longer buffer. -/
theorem decodedLengthAgrees : Obligations.DecodedLengthAgrees := by
  intro b
  refine ⟨fun g hg => ?_, fun hlong => ?_, parseDatagram_lengthMismatch_iff⟩
  · obtain ⟨hsize, hfield, hport⟩ :=
      parseDatagram_ok (congrArg (Emission.mk (parseDatagram b).notes) hg)
    exact ⟨hfield.symm.trans hsize, hsize, hport⟩
  · have := beAt_le b 4
    exact (parseDatagram_lengthMismatch_iff (by omega)).2 (by omega)

/-- Settles O31: the two states take the same snapshot, and nothing else of them enters a result. -/
theorem resultsDependOnInputsOnly : Obligations.ResultsDependOnInputsOnly := by
  intro v s s' t t' hcap hsrc hdst hlen hw hb h h'
  obtain ⟨hregs, hout, hnotes⟩ :=
    writeCmd_sameEffect ⟨hcap, hsrc, hdst, hlen, inputOf_eq_of_written hlen hw hb⟩ h h'
  exact ⟨hregs, hout, hnotes⟩

/-- Settles O42: an answered access clears no mark, and only the two byte writes reach IN. -/
theorem writtenMarksOnlyGrow : Obligations.WrittenMarksOnlyGrow := by
  intro s t e rest hp hreset hstep
  rw [step_cons hp] at hstep
  cases e with
  | reset => exact absurd rfl hreset
  | access a =>
    refine ⟨fun k hk => ?_, fun hw8 _ => ?_⟩
    · rcases runAccess_cases a { s with pending := rest } with ⟨-, hr⟩ | ⟨-, u, hr, ha⟩
      · cases hr.symm.trans hstep
      · cases hr.symm.trans hstep
        exact ha.written hk
    · exact runAccess_inBuf (s := { s with pending := rest }) hstep fun x v hx => hw8 x v (congrArg Event.access hx)
  | copyRead host a =>
    rcases copyRead_cases host a { s with pending := rest } with ⟨-, hr⟩ | ⟨-, u, hu, -, hr⟩
    · cases hr.symm.trans hstep
    · cases hr.symm.trans hstep
      have hin : (keepAnswer host u).inBuf = s.inBuf :=
        (keepAnswer_inBuf host u).trans
          (runAccess_inBuf (s := { s with pending := rest }) hu (by simp))
      exact ⟨fun k hk => hin ▸ hk, fun _ _ => hin⟩
  | writeBack host a =>
    rcases writeBack_cases host a { s with pending := rest } with ⟨-, hr⟩ | ⟨-, u, hr, ha⟩
    · cases hr.symm.trans hstep
    · cases hr.symm.trans hstep
      exact ⟨fun k hk => ha.written hk, fun _ hwb => absurd rfl (hwb host a)⟩

end Sys2Proof.Proofs
end

section
/-! SUPPORT. The rules of the memory family (20_memory.md): the snapshot byte by byte, the frame of a command,
and one access at each part of the address map; then the theorems that settle O22, O23, O28 and O32 to O40. -/

/-! ## The snapshot, byte by byte (R68, R74) -/

namespace Sys2Proof.Machine.Memory

variable (m : Memory)

/-- A write gives its own index the byte written and leaves every other index as it was. -/
theorem read_write (k j : Nat) (b : Byte) :
    Memory.read j (write k b m) = if j = k then some b else Memory.read j m := by
  split
  · rename_i hj
    rw [hj, read_write_same]
  · rename_i hj
    exact read_write_other _ _ hj

/-- Byte `i` of a snapshot is the read at its index, with the draws that the bytes before it made. -/
theorem takeBytes_getElem? {n i : Nat} (k d : Nat) (hi : i < n) :
    (m.takeBytes n k d).1[i]? = some (m.readOrDraw (k + i) (m.takeBytes i k d).2).1 := by
  induction n generalizing i k d with
  | zero => exact absurd hi (Nat.not_lt_zero i)
  | succ n ih =>
    cases i with
    | zero => rfl
    | succ i =>
      have := ih (k + 1) (m.readOrDraw k d).2 (Nat.lt_of_succ_lt_succ hi)
      rw [Nat.add_assoc, Nat.add_comm 1] at this
      exact this

/-- A snapshot of one byte more draws what that byte's own read draws. -/
theorem takeBytes_succ_draws (n k d : Nat) :
    (m.takeBytes (n + 1) k d).2 = (m.readOrDraw (k + n) (m.takeBytes n k d).2).2 := by
  induction n generalizing k d with
  | zero => rfl
  | succ n ih =>
    have := ih (k + 1) (m.readOrDraw k d).2
    rw [Nat.add_assoc, Nat.add_comm 1] at this
    exact this

end Sys2Proof.Machine.Memory

namespace Sys2Proof.Machine

/-- The count of draws when a command's snapshot comes to input byte `k`. -/
def drawsBefore (s : State) (k : Nat) : Nat := (s.inBuf.takeBytes k 0 s.draws).2

variable {s : State} {k : Nat}

/-- After the last input byte the count is the snapshot's own. -/
theorem drawsBefore_inLen (s : State) : drawsBefore s s.inLen.toNat = (inputTaken s).2 := rfl

theorem inputOf_getElem? (hk : k < s.inLen.toNat) :
    (inputOf s)[k]? = some (s.inBuf.readOrDraw k (drawsBefore s k)).1 := by
  have := s.inBuf.takeBytes_getElem? 0 s.draws hk
  rwa [Nat.zero_add] at this

theorem drawsBefore_succ (s : State) (k : Nat) :
    drawsBefore s (k + 1) = (s.inBuf.readOrDraw k (drawsBefore s k)).2 := by
  have := s.inBuf.takeBytes_succ_draws k 0 s.draws
  rwa [Nat.zero_add] at this

/-- The count of draws never falls along the snapshot. -/
theorem drawsBefore_mono (s : State) : Monotone (drawsBefore s) :=
  monotone_nat_of_le_succ fun k => drawsBefore_succ s k ▸ readOrDraw_draws _ _ _

/-- A never-written byte moves the count past its own draw, so no later byte shares it. -/
theorem drawsBefore_lt {j : Nat} (h : s.inBuf.read k = none) (hkj : k < j) :
    drawsBefore s k < drawsBefore s j := by
  have hnext : drawsBefore s (k + 1) = drawsBefore s k + 1 := by
    rw [drawsBefore_succ, Memory.readOrDraw_none _ h]
  have := drawsBefore_mono s (show k + 1 ≤ j from hkj)
  omega

end Sys2Proof.Machine

/-! ## The frame of a command (R74, R95) -/

namespace Sys2Proof.Machine

open Sys2Proof.Claims

variable {i : Instr} {s t : State}

/-- Everything a command writes: its result registers, OUT, the stream and the count of draws. -/
theorem exec_frame (h : exec i s = .next t) :
    t = { s with
      status := t.status, errArg0 := t.errArg0, errArg1 := t.errArg1,
      resSrc := t.resSrc, resDst := t.resDst, resLen := t.resLen, resCsum := t.resCsum,
      outLen := t.outLen, outBuf := t.outBuf, notes := t.notes, draws := t.draws } := by
  cases exec_ran h with
  | tooLong _ ht => subst ht; rfl
  | failed _ _ _ _ _ _ _ _ ht => subst ht; rfl
  | ok _ _ _ _ _ _ _ _ _ _ _ ht => subst ht; rfl

/-- A command appends to the stream. -/
theorem exec_notes (h : exec i s = .next t) : ∃ ns, t.notes = s.notes ++ ns := by
  cases exec_ran h with
  | tooLong _ ht => exact ⟨[], by rw [ht, List.append_nil]⟩
  | failed _ ws c a0 a1 _ _ _ ht => exact ⟨_, by rw [ht]⟩
  | ok _ ns _ _ _ _ _ _ _ _ _ ht => exact ⟨ns, by rw [ht]⟩

/-- A command draws its snapshot, or nothing when IN_LEN is too big (R94). -/
theorem exec_draws (h : exec i s = .next t) : t.draws = s.draws ∨ t.draws = (inputTaken s).2 := by
  cases exec_ran h with
  | tooLong _ ht => exact .inl (by rw [ht])
  | failed _ _ _ _ _ _ _ _ ht => exact .inr (by rw [ht])
  | ok _ _ _ _ _ _ _ _ _ _ _ ht => exact .inr (by rw [ht])

/-- With every input byte written a command draws nothing. -/
theorem exec_draws_of_written (h : exec i s = .next t) (hw : s.inputWritten s.inLen.toNat) :
    t.draws = s.draws := by
  rcases exec_draws h with hd | hd
  · exact hd
  · exact hd.trans (inputTaken_written s hw).1

/-- A success stores nothing at or above its OUT_LEN. -/
theorem Stores.read_above {b : Bytes} {m : Memory} {l : Word} (hs : Stores s i b m l) {k : Nat}
    (hk : l.toNat ≤ k) : m.read k = s.outBuf.read k := by
  have hlen : b.length < 2 ^ 32 → (BitVec.ofNat 32 b.length).toNat = b.length := fun hlt => by
    rw [BitVec.toNat_ofNat, Nat.mod_eq_of_lt hlt]
  cases hs with
  | csum => rfl
  | build _ hb hmax =>
    rw [hlen (by omega)] at hk
    rw [Memory.read_writeFrom, if_neg (by omega)]
  | parse _ hb hmax =>
    rw [hlen (by omega)] at hk
    rw [Memory.read_writeFrom, if_neg (by omega)]

/-- No command changes how OUT reads at or above its new OUT_LEN. -/
theorem exec_outBuf_above (h : exec i s = .next t) {k : Nat} (hk : t.outLen.toNat ≤ k) :
    t.outBuf.read k = s.outBuf.read k := by
  cases exec_ran h with
  | tooLong _ ht => rw [ht]
  | failed _ _ _ _ _ _ _ _ ht => rw [ht]
  | ok _ _ _ _ _ _ _ _ _ _ hs ht =>
    subst ht
    exact hs.read_above hk

/-- CSUM does not touch OUT (R150). -/
theorem execCsum_outBuf (h : exec .csum s = .next t) : t.outBuf = s.outBuf := by
  cases exec_ran h with
  | tooLong _ ht => rw [ht]
  | failed _ _ _ _ _ _ _ _ ht => rw [ht]
  | ok _ _ _ _ _ _ _ _ _ _ hs ht =>
    rw [ht]
    cases hs with
    | csum => rfl

/-- A command leaves its own inputs as they were, so the state after it is one of the same inputs. -/
theorem exec_sameInput (h : exec i s = .next t) (hw : s.inputWritten s.inLen.toNat) :
    SameInput s t where
  inCap := congrArg (·.cfg.inCap) (exec_frame h).symm
  srcPort := congrArg (·.srcPort) (exec_frame h).symm
  dstPort := congrArg (·.dstPort) (exec_frame h).symm
  inLen := congrArg (·.inLen) (exec_frame h).symm
  bytes := inputOf_eq_of_written (congrArg (·.inLen) (exec_frame h).symm) hw
    fun k _ => by rw [exec_inBuf h]

/-- A command that leaves the results as they were changes the stream, the count of draws and OUT alone. -/
theorem exec_frame_of_regs (h : exec i s = .next t) (hregs : resultRegs s = resultRegs t) :
    t = { s with outBuf := t.outBuf, notes := t.notes, draws := t.draws } := by
  simp only [resultRegs, List.cons.injEq, and_true] at hregs
  obtain ⟨hst, ha0, ha1, hsrc, hdst, hlen, hcsum, hout⟩ := hregs
  rw [exec_frame h, ← hst, ← ha0, ← ha1, ← hsrc, ← hdst, ← hlen, ← hcsum, ← hout]

/-- A CMD write adds no answer of its own before the one it is given. -/
theorem writeCmd_responses {v : Word} (h : writeCmd v s = .next t) : t.responses = s.responses := by
  rcases writeCmd_next v s with ⟨i, u, -, hu, hw⟩ | ⟨e, -, hw⟩ <;> rw [hw] at h <;> cases h
  · exact congrArg (·.responses) (exec_frame hu)
  · rfl

end Sys2Proof.Machine

/-! ## The address map (R62) -/

namespace Sys2Proof.Machine

open Sys2Proof.Claims

variable {c : Config} {o k : Nat}

/-- R62's register offsets, said in arithmetic, are the registers' own. -/
theorem regMapped_iff : regMapped o ↔ ∃ r : Reg, o = r.offset := by
  constructor
  · rintro ⟨hal, hle⟩
    have hall : ∀ o ≤ 0x2C, o % 4 = 0 → ∃ r ∈ Reg.all, o = r.offset := by decide
    obtain ⟨r, -, hr⟩ := hall o hle hal
    exact ⟨r, hr⟩
  · rintro ⟨r, rfl⟩
    exact ⟨offset_aligned r, by cases r <;> decide⟩

theorem regMapped_of_target {r : Reg} (h : target c o = .reg r) : regMapped o :=
  regMapped_iff.2 ⟨r, offset_of_target h⟩

theorem inMapped_of_target (h : target c o = .inByte k) : inMapped c o := by
  obtain ⟨rfl, hk⟩ := offset_of_inByte h
  have hwin : inWindow + k < outWindow := by
    by_contra hge
    unfold target at h
    rw [if_neg (by omega), if_neg hge] at h
    split_ifs at h
  exact ⟨Nat.le_add_right _ k, hwin, Nat.add_lt_add_left hk _⟩

theorem outMapped_of_target (h : target c o = .outByte k) : outMapped c o := by
  obtain ⟨rfl, hk⟩ := offset_of_outByte h
  have hwin : outWindow + k < windowsEnd := by
    by_contra hge
    unfold target at h
    rw [if_neg (by simp only [inWindow, outWindow]; omega), if_neg (by omega), if_neg hge] at h
    cases h
  exact ⟨Nat.le_add_right _ k, hwin, Nat.add_lt_add_left hk _⟩

/-- R8: a byte inside a legal capacity is inside its window. -/
theorem inByte_lt_window (hv : c.Valid) (hk : k < c.inCap) : k < 0x10000 := by
  obtain ⟨-, hin, -, -, -⟩ := hv
  omega

theorem outByte_lt_window (hv : c.Valid) (hk : k < c.outCap) : k < 0x10000 := by
  obtain ⟨-, -, -, hout, -⟩ := hv
  omega

/-- An IN offset is the one of a byte inside the capacity and the window. -/
theorem exists_of_inMapped (h : inMapped c o) : ∃ k, o = inWindow + k ∧ k < c.inCap ∧ k < 0x10000 := by
  obtain ⟨hlo, hhi, hcap⟩ := h
  exact ⟨o - inWindow, by unfold inWindow; omega⟩

/-- An OUT offset is the one of a byte inside the capacity and the window. -/
theorem exists_of_outMapped (h : outMapped c o) :
    ∃ k, o = outWindow + k ∧ k < c.outCap ∧ k < 0x10000 := by
  obtain ⟨hlo, hhi, hcap⟩ := h
  exact ⟨o - outWindow, by unfold outWindow; omega⟩

/-! ### R65's cases, one kind of access at a time -/

/-- The offsets of the registers that a host can write (R64). -/
abbrev writable (o : Nat) : Prop := o = 0x000 ∨ o = 0x008 ∨ o = 0x00C ∨ o = 0x010

theorem busErrorCase_r32_iff (x : Nat) : busErrorCase c o (.r32 x) ↔ ¬ regMapped o := by
  simp only [busErrorCase, regMapped, inMapped, outMapped, width, isWrite, true_and, false_and, or_false]
  omega

theorem busErrorCase_w32_iff (x : Nat) (v : Word) : busErrorCase c o (.w32 x v) ↔ ¬ writable o := by
  simp only [busErrorCase, regMapped, inMapped, outMapped, width, isWrite, true_and, List.mem_cons,
    List.not_mem_nil, or_false]
  omega

theorem busErrorCase_r8_iff (x : Nat) :
    busErrorCase c o (.r8 x) ↔ ¬ inMapped c o ∧ ¬ outMapped c o := by
  simp only [busErrorCase, regMapped, inMapped, outMapped, width, isWrite, true_and, false_and, or_false]
  omega

theorem busErrorCase_w8_iff (x : Nat) (v : Byte) : busErrorCase c o (.w8 x v) ↔ ¬ inMapped c o := by
  simp only [busErrorCase, regMapped, inMapped, outMapped, width, isWrite, true_and, List.mem_cons,
    List.not_mem_nil, or_false]
  omega

end Sys2Proof.Machine

/-! ## One access at each part of the map (R64 to R69) -/

namespace Sys2Proof.Machine

open Sys2Proof.Claims

variable {o k : Nat} {s : State}

theorem read32_reg (r : Reg) (s : State) : read32 r.offset s = s.respond (.data32 (readReg r s)) := by
  simp [read32]

theorem read32_of_not_mapped (h : ¬ regMapped o) : read32 o s = busError s := by
  unfold read32
  split
  · rfl
  · split
    · rename_i r hr
      exact absurd (regMapped_of_target hr) h
    · rfl

theorem write32_srcPort (v : Word) (s : State) :
    write32 0x008 v s = .next ((s.setSrcPort (v &&& 0xFFFF)).respond .written) := rfl

theorem write32_dstPort (v : Word) (s : State) :
    write32 0x00C v s = .next ((s.setDstPort (v &&& 0xFFFF)).respond .written) := rfl

theorem write32_inLen (v : Word) (s : State) :
    write32 0x010 v s = .next ((s.setInLen v).respond .written) := by
  have hmask : v &&& Reg.mask .inLen = v := BitVec.and_allOnes
  conv_rhs => rw [← hmask]
  rfl

theorem write32_of_not_writable (v : Word) (h : ¬ writable o) :
    write32 o v s = .next (busError s) := by
  have hreg {r : Reg} (hr : target s.cfg o = .reg r) (hw : writable r.offset) : False :=
    h (offset_of_target hr ▸ hw)
  unfold write32
  split
  · rfl
  · split
    · rename_i hr; exact (hreg hr (by decide)).elim
    · rename_i hr; exact (hreg hr (by decide)).elim
    · rename_i hr; exact (hreg hr (by decide)).elim
    · rename_i hr; exact (hreg hr (by decide)).elim
    · rfl

theorem read8_inByte (hk : k < s.cfg.inCap) (hwin : k < 0x10000) :
    read8 (inWindow + k) s = answerByte (s.inBuf.readOrDraw k s.draws) s := by
  rw [read8, target_inByte s.cfg hk hwin]

/-- An OUT byte below OUT_LEN (R69). -/
theorem read8_outByte_below (hk : k < s.cfg.outCap) (hwin : k < 0x10000) (hlen : k < s.outLen.toNat) :
    read8 (outWindow + k) s = answerByte (s.outBuf.readOrDraw k s.draws) s := by
  rw [read8, target_outByte s.cfg hk hwin]
  exact if_pos hlen

/-- An OUT byte from OUT_LEN on (R69). -/
theorem read8_outByte_above (hk : k < s.cfg.outCap) (hwin : k < 0x10000) (hlen : s.outLen.toNat ≤ k) :
    read8 (outWindow + k) s = answerByte (Config.freeByte s.draws, s.draws + 1) s := by
  rw [read8, target_outByte s.cfg hk hwin]
  exact if_neg (Nat.not_lt.2 hlen)

theorem read8_of_not_mapped (hin : ¬ inMapped s.cfg o) (hout : ¬ outMapped s.cfg o) :
    read8 o s = busError s := by
  unfold read8
  split
  · rename_i h
    exact absurd (inMapped_of_target h) hin
  · rename_i h
    exact absurd (outMapped_of_target h) hout
  · rfl

/-- A byte read at a mapped offset answers some byte. -/
theorem read8_of_mapped (h : inMapped s.cfg o ∨ outMapped s.cfg o) :
    ∃ r, read8 o s = answerByte r s := by
  rcases h with h | h
  · obtain ⟨k, rfl, hk, hwin⟩ := exists_of_inMapped h
    exact ⟨_, read8_inByte hk hwin⟩
  · obtain ⟨k, rfl, hk, hwin⟩ := exists_of_outMapped h
    rcases Nat.lt_or_ge k s.outLen.toNat with hlen | hlen
    · exact ⟨_, read8_outByte_below hk hwin hlen⟩
    · exact ⟨_, read8_outByte_above hk hwin hlen⟩

theorem write8_inByte (v : Byte) (hk : k < s.cfg.inCap) (hwin : k < 0x10000) :
    write8 (inWindow + k) v s = (s.setInBuf (Memory.write k v s.inBuf)).respond .written := by
  rw [write8, target_inByte s.cfg hk hwin]

theorem write8_of_not_mapped (v : Byte) (h : ¬ inMapped s.cfg o) : write8 o v s = busError s := by
  unfold write8
  split
  · rename_i ht
    exact absurd (inMapped_of_target ht) h
  · rfl

/-- R65, for every kind of access. -/
theorem accessAt_of_busErrorCase {a : Access} (h : busErrorCase s.cfg o a) :
    accessAt o a s = .next (busError s) := by
  cases a with
  | r32 x => exact congrArg _ (read32_of_not_mapped ((busErrorCase_r32_iff x).1 h))
  | w32 x v => exact write32_of_not_writable v ((busErrorCase_w32_iff x v).1 h)
  | r8 x =>
    obtain ⟨hin, hout⟩ := (busErrorCase_r8_iff x).1 h
    exact congrArg _ (read8_of_not_mapped hin hout)
  | w8 x v => exact congrArg _ (write8_of_not_mapped v ((busErrorCase_w8_iff x v).1 h))
  | other bits w x => rfl

/-- The access completes with one answer, which is no bus error. -/
def Completes (out : Host.Outcome State Fault Refusal) (s : State) : Prop :=
  ∃ t r, out = .next t ∧ t.responses = s.responses ++ [r] ∧ r ≠ .busError

theorem write32_completes (v : Word) (h : writable o) : Completes (write32 o v s) s := by
  rcases h with rfl | rfl | rfl | rfl
  · rw [write32_cmd]
    rcases writeCmd_next v s with ⟨_, t, -, -, hw⟩ | ⟨_, -, hw⟩ <;> rw [hw]
    · exact ⟨_, .written, rfl, congrArg (· ++ _) (writeCmd_responses hw), by simp⟩
    · exact ⟨_, .written, rfl, congrArg (· ++ _) (writeCmd_responses hw), by simp⟩
  · exact ⟨_, .written, write32_srcPort v s, rfl, by simp⟩
  · exact ⟨_, .written, write32_dstPort v s, rfl, by simp⟩
  · exact ⟨_, .written, write32_inLen v s, rfl, by simp⟩

/-- An access of one of R64's four kinds, in none of R65's cases. -/
theorem accessAt_completes {a : Access} (hwidth : width a = 8 ∨ width a = 32) (hwf : a.wf = true)
    (h : ¬ busErrorCase s.cfg o a) : Completes (accessAt o a s) s := by
  cases a with
  | r32 x =>
    rw [busErrorCase_r32_iff, not_not, regMapped_iff] at h
    obtain ⟨r, rfl⟩ := h
    exact ⟨_, .data32 _, congrArg Host.Outcome.next (read32_reg r s), rfl, by simp⟩
  | w32 x v =>
    rw [busErrorCase_w32_iff, not_not] at h
    exact write32_completes v h
  | r8 x =>
    rw [busErrorCase_r8_iff, not_and_or, not_not, not_not] at h
    obtain ⟨r, hr⟩ := read8_of_mapped h
    exact ⟨_, .data8 r.1, congrArg Host.Outcome.next hr, rfl, by simp⟩
  | w8 x v =>
    rw [busErrorCase_w8_iff, not_not] at h
    obtain ⟨k, rfl, hk, hwin⟩ := exists_of_inMapped h
    exact ⟨_, .written, congrArg Host.Outcome.next (write8_inByte v hk hwin), rfl, by simp⟩
  | other bits w x =>
    simp only [Access.wf, Bool.and_eq_true, bne_iff_ne] at hwf
    exact absurd hwidth (not_or.2 hwf)

/-- An access of neither width of R64 (D2). -/
theorem accessAt_of_width {a : Access} (h8 : width a ≠ 8) (h32 : width a ≠ 32) :
    accessAt o a s = .next (busError s) := by
  cases a with
  | r32 _ | w32 _ _ => exact absurd rfl h32
  | r8 _ | w8 _ _ => exact absurd rfl h8
  | other _ _ _ => rfl

/-! ### Reads change nothing of the block (R73) -/

theorem read32_frame (o : Nat) (s : State) :
    read32 o s = { s with responses := (read32 o s).responses, draws := (read32 o s).draws } := by
  by_cases h : regMapped o
  · obtain ⟨r, rfl⟩ := regMapped_iff.1 h
    rw [read32_reg]
    rfl
  · rw [read32_of_not_mapped h]
    rfl

theorem read8_frame (o : Nat) (s : State) :
    read8 o s = { s with responses := (read8 o s).responses, draws := (read8 o s).draws } := by
  by_cases h : inMapped s.cfg o ∨ outMapped s.cfg o
  · obtain ⟨r, hr⟩ := read8_of_mapped h
    rw [hr]
    rfl
  · obtain ⟨hin, hout⟩ := not_or.1 h
    rw [read8_of_not_mapped hin hout]
    rfl

/-- A read, at whatever address, changes only the answers and the count of draws. -/
theorem runAccess_read_frame {a : Access} {t : State} (ha : ∃ x, a = .r32 x ∨ a = .r8 x)
    (h : runAccess a s = .next t) :
    t = { s with responses := t.responses, draws := t.draws } := by
  unfold runAccess at h
  split at h
  · obtain ⟨x, rfl | rfl⟩ := ha <;> cases h
    · exact read32_frame _ s
    · exact read8_frame _ s
  · cases h

/-- The keeping of an answer changes only what the hosts keep. -/
theorem keepAnswer_frame (host : Nat) (s : State) :
    keepAnswer host s = { s with held := (keepAnswer host s).held } := by
  rcases keepAnswer_cases host s with ⟨b, -, h⟩ | ⟨-, h⟩ <;> rw [h] <;> rfl

end Sys2Proof.Machine

/-! ## The step of an access -/

namespace Sys2Proof.Machine

open Sys2Proof.Claims

variable {s : State} {rest : List Event} {k : Nat}

/-- The step of an access to an address of the block. -/
theorem step_access_of_addresses {a : Access} (hp : s.pending = .access a :: rest)
    (ha : s.cfg.Addresses a.addr) :
    step s = accessAt (a.addr - s.cfg.base) a { s with pending := rest } := by
  obtain ⟨hlo, hhi⟩ := ha
  exact step_access hp (by omega) (by omega)

/-- The step of an access to IN byte `k`. -/
theorem step_access_in {a : Access} (hv : s.cfg.Valid) (hk : k < s.cfg.inCap)
    (hp : s.pending = .access a :: rest) (ha : a.addr = s.cfg.base + 0x10000 + k) :
    step s = accessAt (inWindow + k) a { s with pending := rest } := by
  have := inByte_lt_window hv hk
  exact step_access hp (ha.trans (Nat.add_assoc _ _ _))
    (by unfold inWindow Config.blockSize; omega)

/-- The step of an access to OUT byte `k`. -/
theorem step_access_out {a : Access} (hv : s.cfg.Valid) (hk : k < s.cfg.outCap)
    (hp : s.pending = .access a :: rest) (ha : a.addr = s.cfg.base + 0x20000 + k) :
    step s = accessAt (outWindow + k) a { s with pending := rest } := by
  have := outByte_lt_window hv hk
  exact step_access hp (ha.trans (Nat.add_assoc _ _ _))
    (by unfold outWindow Config.blockSize; omega)

/-- The step of a byte read of IN: the byte, or a draw (R67, R68). -/
theorem step_r8_in (hv : s.cfg.Valid) (hk : k < s.cfg.inCap)
    (hp : s.pending = .access (.r8 (s.cfg.base + 0x10000 + k)) :: rest) :
    step s = .next (answerByte (s.inBuf.readOrDraw k s.draws) { s with pending := rest }) := by
  rw [step_access_in hv hk hp rfl]
  exact congrArg _ (read8_inByte (s := { s with pending := rest }) hk (inByte_lt_window hv hk))

/-- The registers a host sees are the registers of the model, each at its offset. -/
theorem shown_eq (s : State) : shown s = Reg.all.map fun r => (r.offset, readReg r s) := by
  have hmask (v : Word) : v &&& 4294967295#32 = v := BitVec.and_allOnes
  simp [shown, Reg.all, Reg.offset, readReg, Reg.field, Reg.mask, Status.mask, hmask]

/-- The events to come are in no register. -/
theorem readReg_pending (r : Reg) (s : State) (es : List Event) :
    readReg r { s with pending := es } = readReg r s := by
  cases r <;> rfl

theorem offset_lt_blockSize (r : Reg) : r.offset < Config.blockSize := by
  cases r <;> decide

/-- The low 16 bits of a word, as a number (R30, R31). -/
theorem and_low16_eq (v : Word) : v &&& 0xFFFF = BitVec.ofNat 32 (v.toNat % 65536) := by
  apply BitVec.eq_of_toNat_eq
  rw [BitVec.toNat_and, BitVec.toNat_ofNat, Nat.mod_eq_of_lt (by omega)]
  exact Nat.and_two_pow_sub_one_eq_mod _ 16

end Sys2Proof.Machine

/-! ## The obligations -/

namespace Sys2Proof.Proofs

open Sys2Proof.Machine Sys2Proof.Claims

/-- Settles O22: byte `k` of the snapshot is one read of IN, which a written byte answers itself. -/
theorem snapshotIsTheInput : Obligations.SnapshotIsTheInput := by
  intro s
  refine ⟨inputOf_length s, fun k b hk hb => ?_, fun hw => (inputTaken_written s hw).1⟩
  rw [inputOf_getElem? hk, Memory.readOrDraw_some _ hb]

/-- Settles O23: the draw of a byte is the count when the snapshot comes to it, which its own read
moves on. -/
theorem unwrittenInputIsDrawn : Obligations.UnwrittenInputIsDrawn := by
  intro s
  refine ⟨drawsBefore s, fun k hk hn => ⟨?_, ?_, ?_⟩, fun j k hjk _ hj _ => drawsBefore_lt hj hjk⟩
  · rw [inputOf_getElem? hk, Memory.readOrDraw_none _ hn]
  · exact s.inBuf.le_takeBytes_draws 0 s.draws k
  · exact (drawsBefore_lt hn hk).trans_eq (drawsBefore_inLen s)

/-- Settles O28: the frame of each command's three endings. -/
theorem commandFrame : Obligations.CommandFrame := by
  intro i s t h
  have hf := exec_frame h
  refine ⟨congrArg (·.cfg) hf, congrArg (·.srcPort) hf, congrArg (·.dstPort) hf,
    congrArg (·.inLen) hf, congrArg (·.inBuf) hf, congrArg (·.pending) hf,
    congrArg (·.responses) hf, congrArg (·.held) hf, exec_notes h, ?_,
    fun k hk => exec_outBuf_above h hk, ?_⟩
  · rcases exec_draws h with hd | hd <;> rw [hd]
    exact s.inBuf.le_takeBytes_draws 0 s.draws s.inLen.toNat
  · rintro rfl
    exact execCsum_outBuf h

/-- Settles O32: the state after a command has the inputs of the state before it (R26), so the second run
has the effect of the first, and no byte is drawn. -/
theorem repeatedCommandRepeats : Obligations.RepeatedCommandRepeats := by
  intro i s t hw h
  obtain ⟨u, hu⟩ := exec_next i t
  obtain ⟨hregs, hout, ns, hnotes, hnotes'⟩ := exec_sameEffect (exec_sameInput h hw) h hu
  have hw' : t.inputWritten t.inLen.toNat := by
    rw [exec_frame h]
    exact hw
  refine ⟨ns, hnotes, u, hu, ?_, fun k => ?_⟩
  · rw [← hnotes', ← exec_draws_of_written hu hw']
    exact exec_frame_of_regs hu hregs
  · rcases Nat.lt_or_ge k t.outLen.toNat with hk | hk
    · exact (hout k hk).symm
    · have hlen : u.outLen = t.outLen := congrArg (·.outLen) (exec_frame_of_regs hu hregs)
      exact exec_outBuf_above hu (hlen ▸ hk)

/-- Settles O35: the two byte accesses at an IN offset, and the read of a memory after a write. -/
theorem inputByteAccess : Obligations.InputByteAccess := by
  intro s rest k hv hk
  refine ⟨fun v hp =>
    ⟨(State.setInBuf (Memory.write k v s.inBuf) { s with pending := rest }).respond .written,
      ?_, rfl, fun j => s.inBuf.read_write k j v⟩, fun b hp hb => ?_⟩
  · rw [step_access_in hv hk hp rfl]
    exact congrArg _
      (write8_inByte (s := { s with pending := rest }) v hk (inByte_lt_window hv hk))
  · rw [step_r8_in hv hk hp, Memory.readOrDraw_some _ hb]
    rfl

/-- Settles O36: below OUT_LEN a byte read is the read of OUT. -/
theorem outputByteRead : Obligations.OutputByteRead := by
  intro s rest k b hv hk hlen hb hp
  have hread := read8_outByte_below (s := { s with pending := rest }) hk (outByte_lt_window hv hk) hlen
  rw [Memory.readOrDraw_some _ hb] at hread
  rw [step_access_out hv hk hp rfl]
  exact congrArg _ hread

/-- Settles O37: where IN lists no byte, and from OUT_LEN on, a byte read is the next draw. -/
theorem undefinedByteReadIsFresh : Obligations.UndefinedByteReadIsFresh := by
  intro s rest k hv
  refine ⟨fun hk hn hp => ?_, fun hk hlen hp => ?_⟩
  · rw [step_r8_in hv hk hp, Memory.readOrDraw_none _ hn]
    rfl
  · rw [step_access_out hv hk hp rfl]
    exact congrArg _
      (read8_outByte_above (s := { s with pending := rest }) hk (outByte_lt_window hv hk) hlen)

/-- Settles O38: R65's cases, for each kind of access. -/
theorem busErrorChangesNothing : Obligations.BusErrorChangesNothing := by
  intro s rest a hp ha hcase
  rw [step_access_of_addresses hp ha]
  exact accessAt_of_busErrorCase hcase

/-- Settles O39: the converse, for each of R64's four kinds, and D2 for the other widths. -/
theorem busErrorOnlyWhereListed : Obligations.BusErrorOnlyWhereListed := by
  intro s rest a hp ha
  rw [step_access_of_addresses hp ha]
  exact ⟨fun hw hwf hcase => accessAt_completes hw hwf hcase, accessAt_of_width⟩

/-- Settles O40: the frame of a read, and of a read whose answer its host keeps. -/
theorem readsHaveNoSideEffect : Obligations.ReadsHaveNoSideEffect := by
  refine ⟨fun s t rest a hp hstep => ?_, fun s t rest host a hp hstep => ?_⟩
  · rcases hp with hp | hp <;> rw [step_cons hp] at hstep
    · exact runAccess_read_frame ⟨a, .inl rfl⟩ hstep
    · exact runAccess_read_frame ⟨a, .inr rfl⟩ hstep
  · rw [step_cons hp] at hstep
    rcases copyRead_cases host a { s with pending := rest } with ⟨-, hr⟩ | ⟨-, u, hu, -, hr⟩
    · cases hr.symm.trans hstep
    · cases hr.symm.trans hstep
      have hframe := runAccess_read_frame ⟨a, .inr rfl⟩ hu
      refine ⟨?_, fun h hh => ?_⟩
      · rw [keepAnswer_frame, hframe]
      · rw [read_keepAnswer, if_neg hh, hframe]

/-- Settles O33: each listed offset is a register's, and its value the one that is read there. -/
theorem registerReadAnswers : Obligations.RegisterReadAnswers := by
  intro s rest o v hv hp
  rw [shown_eq, List.mem_map] at hv
  obtain ⟨r, -, heq⟩ := hv
  obtain ⟨rfl, rfl⟩ := Prod.mk.inj heq
  rw [step_access hp rfl (offset_lt_blockSize r), ← readReg_pending r s rest]
  exact congrArg Host.Outcome.next (read32_reg r { s with pending := rest })

/-- Settles O34: the three read-write registers, each at its offset. -/
theorem registerWriteStores : Obligations.RegisterWriteStores := by
  intro s rest v
  rw [← and_low16_eq]
  refine ⟨fun hp => ?_, fun hp => ?_, fun hp => ?_⟩
  · exact (step_access hp rfl (by decide)).trans (write32_srcPort v _)
  · exact (step_access hp rfl (by decide)).trans (write32_dstPort v _)
  · exact (step_access hp rfl (by decide)).trans (write32_inLen v _)

end Sys2Proof.Proofs
end

section
/-! SUPPORT. The rules of the encoding family (30_encoding.md): the command word by its two fields, a CMD write
as a step, and the two halves of a `copyback`; then the theorems that settle O17 to O21 and O48 to O50. -/

/-! ## The command word (R90, R91, R97) -/

namespace Sys2Proof

open Sys2Proof.Claims

variable {v w : Word} {i : Instr}

/-- R90: a command word is MBZ above OP. -/
theorem toNat_eq_fields (v : Word) : v.toNat = 16 * (mbzField v).toNat + (opField v).toNat := by
  simp only [mbzField, opField, BitVec.extractLsb'_toNat, Nat.shiftRight_eq_div_pow]
  omega

theorem eq_of_fields (hmbz : mbzField v = mbzField w) (hop : opField v = opField w) : v = w :=
  BitVec.eq_of_toNat_eq (by rw [toNat_eq_fields v, toNat_eq_fields w, hmbz, hop])

/-- OP with zeros above is the word's low four bits. -/
theorem and_0xF_eq_opField (v : Word) : v &&& 0xF = (opField v).setWidth 32 := by
  apply BitVec.eq_of_toNat_eq
  have hop : (opField v).toNat = v.toNat % 16 := by simp [opField]
  have hand : (v &&& 0xF).toNat = v.toNat % 16 := Nat.and_two_pow_sub_one_eq_mod _ 4
  rw [hand, BitVec.toNat_setWidth, hop]
  omega

@[simp] theorem mbzField_encode (i : Instr) : mbzField (encode i) = 0 := by
  cases i <;> rfl

@[simp] theorem decode_encode (i : Instr) : decode (encode i) = .ok i := by
  cases i <;> rfl

/-- A word that is a command has nothing in MBZ and the command's opcode in OP. -/
theorem fields_of_decode (h : decode v = .ok i) : mbzField v = 0 ∧ opField v = i.opcode := by
  unfold decode at h
  split at h
  · cases h
  next hmbz =>
    refine ⟨not_not.1 hmbz, ?_⟩
    split at h
    next hop => cases h; exact hop
    split at h
    next hop => cases h; exact hop
    split at h
    next hop => cases h; exact hop
    cases h

/-- The encoder is the decoder's inverse. -/
theorem decode_eq_ok_iff : decode v = .ok i ↔ encode i = v := by
  refine ⟨fun h => ?_, fun h => h ▸ decode_encode i⟩
  obtain ⟨hmbz, hop⟩ := fields_of_decode h
  exact eq_of_fields (by rw [mbzField_encode, hmbz]) (by rw [Machine.opField_encode, hop])

theorem encode_eq_ofNat_op (i : Instr) : encode i = BitVec.ofNat 32 (op i) := by
  cases i <;> rfl

theorem legalWord_encode (i : Instr) : legalWord (encode i) := by
  cases i
  · exact .inl rfl
  · exact .inr (.inl rfl)
  · exact .inr (.inr rfl)

/-- R93: every other word is refused. -/
theorem decode_error_of_not_legal (h : ¬ legalWord v) : ∃ e, decode v = .error e := by
  cases hd : decode v with
  | error e => exact ⟨e, rfl⟩
  | ok i => exact absurd (decode_eq_ok_iff.1 hd ▸ legalWord_encode i) h

end Sys2Proof

/-! ## A CMD write (R92, R93, R94) -/

namespace Sys2Proof.Machine

open Sys2Proof.Claims

variable {s : State} {rest : List Event} {v : Word}

/-- The step of a 32-bit write to CMD. -/
theorem step_writeCmd (hp : s.pending = .access (.w32 s.cfg.base v) :: rest) :
    step s = afterNext (State.respond .written) (writeCmd v { s with pending := rest }) :=
  (step_access (o := 0) hp rfl (by decide)).trans (write32_cmd v _)

theorem writeCmd_of_decode_ok {i : Instr} (h : decode v = .ok i) : writeCmd v s = exec i s := by
  rw [writeCmd, h]

theorem writeCmd_of_decode_error {e : DecodeError} (h : decode v = .error e) :
    writeCmd v s = .next (illegalCommand v s) := by
  rw [writeCmd, h]

/-- R93's STATUS: ERR = 7 below LASTOP. -/
theorem illegal_status (v : Word) :
    Status.setErr (Status.start (opField v)) Code.illegalCommand.num = (v &&& 0xF) <<< 8 ||| 7 := by
  rw [and_0xF_eq_opField]
  generalize opField v = op
  revert op
  decide

/-- R93's commit in the statement's words. -/
theorem illegalCommand_eq_failed (v : Word) (s : State) :
    illegalCommand v s = failed ((v &&& 0xF) <<< 8 ||| 7) v 0 [] s.draws s := by
  rw [illegalCommand_eq, illegal_status, failed, List.append_nil]

/-- R94's STATUS: ERR = 6 below LASTOP. -/
theorem tooLong_status (i : Instr) :
    Status.setErr (Status.start i.opcode) Code.badInputLength.num = BitVec.ofNat 32 (256 * op i + 6) := by
  cases i <;> rfl

end Sys2Proof.Machine

/-! ## The two halves of a `copyback` (R101) -/

namespace Sys2Proof.Machine

open Sys2Proof.Claims

variable {s u : State} {rest : List Event} {host a k : Nat} {b : Byte}

/-- An access to IN byte `k`, at its bus address. -/
theorem runAccess_in {x : Access} (hv : s.cfg.Valid) (hk : k < s.cfg.inCap)
    (hx : x.addr = s.cfg.base + 0x10000 + k) : runAccess x s = accessAt (inWindow + k) x s := by
  have hwin := inByte_lt_window hv hk
  have ho : inWindow + k < Config.blockSize := by unfold inWindow Config.blockSize; omega
  rw [runAccess, hx, Nat.add_assoc, show 0x10000 + k = inWindow + k from rfl, blockOffset_add _ ho]

/-- An access to OUT byte `k`, at its bus address. -/
theorem runAccess_out {x : Access} (hv : s.cfg.Valid) (hk : k < s.cfg.outCap)
    (hx : x.addr = s.cfg.base + 0x20000 + k) : runAccess x s = accessAt (outWindow + k) x s := by
  have hwin := outByte_lt_window hv hk
  have ho : outWindow + k < Config.blockSize := by unfold outWindow Config.blockSize; omega
  rw [runAccess, hx, Nat.add_assoc, show 0x20000 + k = outWindow + k from rfl, blockOffset_add _ ho]

/-- The host keeps the byte it was answered. -/
theorem keepAnswer_of_data8 {rs : List Response} (h : s.responses = rs ++ [.data8 b]) :
    keepAnswer host s = s.setHeld (Memory.write host b s.held) := by
  rw [keepAnswer, lastByte_append h, byteOf]

/-- After a bus error the host keeps no byte (R65). -/
theorem keepAnswer_of_busError {rs : List Response} (h : s.responses = rs ++ [.busError]) :
    keepAnswer host s = s.setHeld (Memory.erase host s.held) := by
  rw [keepAnswer, lastByte_append h, byteOf]

/-- The step of a `copyback`'s read: the read's answer, then kept by its host. -/
theorem step_copyRead (hp : s.pending = .copyRead host a :: rest)
    (hr : runAccess (.r8 a) { s with pending := rest } = .next u) :
    step s = .next (keepAnswer host u) := by
  rw [step_cons hp, runEvent, copyRead, hr, afterNext]

/-- R69: the read of an OUT byte below OUT_LEN. -/
theorem step_copyRead_out (hv : s.cfg.Valid) (hk : k < s.cfg.outCap) (hlen : k < s.outLen.toNat)
    (hb : s.outBuf.read k = some b)
    (hp : s.pending = .copyRead host (s.cfg.base + outWindow + k) :: rest) :
    step s = .next { s with
      pending := rest, responses := s.responses ++ [.data8 b],
      held := Memory.write host b s.held } := by
  have hread := read8_outByte_below (s := { s with pending := rest }) hk (outByte_lt_window hv hk) hlen
  rw [Memory.readOrDraw_some _ hb] at hread
  have haccess := runAccess_out (s := { s with pending := rest }) hv hk
    (show (Access.r8 (s.cfg.base + outWindow + k)).addr = _ from rfl)
  rw [step_copyRead hp (haccess.trans (congrArg Host.Outcome.next hread)), keepAnswer_of_data8 rfl]
  rfl

/-- R65: a read that is a bus error, after which the host keeps no byte. -/
theorem step_copyRead_busError (ha : s.cfg.Addresses a)
    (hcase : busErrorCase s.cfg (a - s.cfg.base) (.r8 a))
    (hp : s.pending = .copyRead host a :: rest) :
    step s = .next { s with
      pending := rest, responses := s.responses ++ [.busError],
      held := Memory.erase host s.held } := by
  have hread : runAccess (.r8 a) { s with pending := rest } =
      .next (busError { s with pending := rest }) := by
    rw [runAccess, show (Access.r8 a).addr = a from rfl, blockOffset_some ha]
    exact accessAt_of_busErrorCase hcase
  rw [step_copyRead hp hread, keepAnswer_of_busError rfl]
  rfl

/-- R66: the write of the byte the host keeps, or of a draw where it keeps none, to IN byte `k`. -/
theorem step_writeBack_in {d : Nat} (hv : s.cfg.Valid) (hk : k < s.cfg.inCap)
    (hkept : s.held.readOrDraw host s.draws = (b, d))
    (hp : s.pending = .writeBack host (s.cfg.base + 0x10000 + k) :: rest) :
    step s = .next { s with
      pending := rest, responses := s.responses ++ [.written],
      inBuf := Memory.write k b s.inBuf, draws := d } := by
  have hwrite := write8_inByte (s := { s with pending := rest, draws := d }) b hk
    (inByte_lt_window hv hk)
  have haccess := runAccess_in (s := { s with pending := rest, draws := d }) hv hk
    (show (Access.w8 (s.cfg.base + 0x10000 + k) b).addr = _ from rfl)
  rw [step_cons hp, runEvent, writeBack]
  dsimp only
  rw [hkept]
  exact haccess.trans (congrArg Host.Outcome.next hwrite)

end Sys2Proof.Machine

/-! ## Runs, and a whole `copyback` alone -/

namespace Sys2Proof.Machine

variable {s t u : State} {rest : List Event} {host k m n : Nat} {b : Byte}

theorem runsTo_one (h : step s = .next t) : runsTo 1 s t := ⟨t, h, rfl⟩

theorem runsTo_add (h : runsTo m s t) (h' : runsTo n t u) : runsTo (m + n) s u := by
  induction m generalizing s with
  | zero => obtain rfl : s = t := h; rwa [Nat.zero_add]
  | succ m ih =>
    obtain ⟨r, hr, hrun⟩ := h
    rw [Nat.succ_add]
    exact ⟨r, hr, ih hrun⟩

/-- One round of a `copyback` whose two accesses follow each other copies one OUT byte below OUT_LEN. -/
theorem runsTo_copyRound (hv : s.cfg.Valid) (hout : k < s.cfg.outCap) (hlen : k < s.outLen.toNat)
    (hin : k < s.cfg.inCap) (hb : s.outBuf.read k = some b)
    (hp : s.pending = .copyRead host (s.cfg.base + outWindow + k) ::
      .writeBack host (s.cfg.base + inWindow + k) :: rest) :
    runsTo 2 s { s with
      pending := rest, responses := s.responses ++ [.data8 b] ++ [.written],
      inBuf := Memory.write k b s.inBuf, held := Memory.write host b s.held } :=
  runsTo_add (runsTo_one (step_copyRead_out hv hout hlen hb hp)) (runsTo_one
    (step_writeBack_in hv hin (Memory.readOrDraw_some _ (Memory.read_write_same _ host b)) rfl))

/-- What a host's `copyback` of the bytes `k` to `k + n - 1` leaves, with `rest` still to come. -/
structure CopiedBack (host k n : Nat) (rest : List Event) (s t : State) : Prop where
  frame : t = { s with
    pending := rest, inBuf := t.inBuf, responses := t.responses, held := t.held }
  inBuf_read : ∀ j, t.inBuf.read j = if k ≤ j ∧ j < k + n then s.outBuf.read j else s.inBuf.read j
  held_read : ∀ h, h ≠ host → t.held.read h = s.held.read h

/-- The rounds of a `copyback` from byte `k`, each below OUT_LEN and both capacities. -/
theorem exists_run_copyback (hv : s.cfg.Valid) (hcap : s.outLen.toNat ≤ s.cfg.outCap)
    (hdef : ∀ j, j < s.outLen.toNat → s.outBuf.written j = true)
    (hlen : k + n ≤ s.outLen.toNat) (hin : k + n ≤ s.cfg.inCap)
    (hp : s.pending = copybackEvents host s.cfg.base n k ++ rest) :
    ∃ t, runsTo (2 * n) s t ∧ CopiedBack host k n rest s t := by
  induction n generalizing s k with
  | zero =>
    have hp : s.pending = rest := hp
    exact ⟨s, rfl, by rw [← hp], fun j => (if_neg (by omega)).symm, fun _ _ => rfl⟩
  | succ n ih =>
    obtain ⟨b, hb⟩ := Option.isSome_iff_exists.1 (hdef k (by omega))
    have hround := runsTo_copyRound hv (by omega) (by omega) (by omega) hb hp
    obtain ⟨t, hrun, hframe, hread, hheld⟩ := ih (k := k + 1) (s := { s with
      pending := copybackEvents host s.cfg.base n (k + 1) ++ rest,
      responses := s.responses ++ [.data8 b] ++ [.written],
      inBuf := Memory.write k b s.inBuf, held := Memory.write host b s.held })
      hv hcap hdef (by dsimp only; omega) (by dsimp only; omega) rfl
    refine ⟨t, ?_, hframe, fun j => ?_, fun h hh => ?_⟩
    · rw [Nat.mul_succ, Nat.add_comm]
      exact runsTo_add hround hrun
    · rw [hread, Memory.read_write]
      by_cases hj : j = k
      · rw [if_neg (by omega), if_pos hj, if_pos (by omega), hj, hb]
      · rw [if_neg hj]
        exact if_congr (by omega) rfl rfl
    · rw [hheld h hh, Memory.read_write_other _ _ hh]

/-- R101: a one-line program puts its line's rounds next. -/
theorem withProgram_copyback (s : State) (host n : Nat) :
    s.withProgram host [.copyback n] =
      { s with pending := copybackEvents host s.cfg.base n 0 ++ s.pending } := by
  simp [State.withProgram, expandAll, HostLine.expand, State.setPending]

end Sys2Proof.Machine

/-! ## What stands between the halves of a `copyback` (R75) -/

namespace Sys2Proof.Machine

variable {s : State} {e : Event} {rest : List Event} {host : Nat}

/-- An event that the block answers, and that is no `copyRead` of this host, completes and leaves what the host
keeps. -/
theorem exists_step_keeping_held (hp : s.pending = e :: rest) (he : e.answerable s.cfg)
    (hne : ∀ a, e ≠ .copyRead host a) :
    ∃ t, step s = .next t ∧ t.pending = rest ∧ t.cfg = s.cfg ∧
      t.held.read host = s.held.read host := by
  rw [step_cons hp]
  cases e with
  | reset => exact ⟨_, rfl, rfl, rfl, rfl⟩
  | access a =>
    rcases runAccess_cases a { s with pending := rest } with ⟨hn, -⟩ | ⟨-, t, ht, ha⟩
    · exact absurd he hn
    · obtain ⟨hcfg, hpend, hheld, -⟩ := ha.keeps
      exact ⟨t, ht, hpend, hcfg, by rw [hheld]⟩
  | copyRead h a =>
    rcases copyRead_cases h a { s with pending := rest } with ⟨hn, -⟩ | ⟨-, u, -, ha, hr⟩
    · exact absurd he hn
    · obtain ⟨hcfg, hpend, hheld, -⟩ := ha.keeps
      have hhost : host ≠ h := fun heq => hne a (heq ▸ rfl)
      refine ⟨_, hr, ?_, ?_, ?_⟩
      · rw [keepAnswer_frame, hpend]
      · rw [keepAnswer_frame, hcfg]
      · rw [read_keepAnswer, if_neg hhost, hheld]
  | writeBack h a =>
    rcases writeBack_cases h a { s with pending := rest } with ⟨hn, -⟩ | ⟨-, t, ht, ha⟩
    · exact absurd he hn
    · obtain ⟨hcfg, hpend, hheld, -⟩ := ha.keeps
      exact ⟨t, ht, hpend, hcfg, by rw [hheld]; rfl⟩

/-- A run over such events: it never stops, and the host still keeps its byte. -/
theorem exists_run_keeping_held {mid : List Event} (hp : s.pending = mid ++ rest)
    (hmid : ∀ e ∈ mid, e.answerable s.cfg ∧ ∀ a, e ≠ .copyRead host a) :
    ∃ t, runsTo mid.length s t ∧ t.pending = rest ∧ t.cfg = s.cfg ∧
      t.held.read host = s.held.read host := by
  induction mid generalizing s with
  | nil => exact ⟨s, rfl, hp, rfl, rfl⟩
  | cons e mid ih =>
    obtain ⟨⟨he, hne⟩, hmid⟩ := List.forall_mem_cons.1 hmid
    obtain ⟨u, hu, hup, hucfg, huheld⟩ := exists_step_keeping_held hp he hne
    obtain ⟨t, hrun, htp, htcfg, htheld⟩ := ih hup (hucfg ▸ hmid)
    exact ⟨t, ⟨u, hu, hrun⟩, htp, htcfg.trans hucfg, htheld.trans huheld⟩

/-- A `copyback`'s read that was answered a byte: the host keeps that byte. -/
theorem copyRead_keeps_answer {u : State} {a : Nat} {b : Byte} (hp : s.pending = .copyRead host a :: rest)
    (hstep : step s = .next u) (hresp : u.responses = s.responses ++ [.data8 b]) :
    u.pending = rest ∧ u.cfg = s.cfg ∧ u.held.read host = some b := by
  rw [step_cons hp] at hstep
  rcases copyRead_cases host a { s with pending := rest } with ⟨-, hr⟩ | ⟨-, t, -, ha, hr⟩
  · cases hr.symm.trans hstep
  · cases hr.symm.trans hstep
    obtain ⟨hcfg, hpend, -, -⟩ := ha.keeps
    rw [keepAnswer_frame] at hresp
    refine ⟨?_, ?_, ?_⟩
    · rw [keepAnswer_frame, hpend]
    · rw [keepAnswer_frame, hcfg]
    · rw [read_keepAnswer, if_pos rfl]
      exact lastByte_append hresp

end Sys2Proof.Machine

/-! ## The obligations -/

namespace Sys2Proof.Proofs

open Sys2Proof.Machine Sys2Proof.Claims

/-- Settles O17: the two fields of a word determine it. -/
theorem decoderTotalAndExact : Obligations.DecoderTotalAndExact := by
  refine ⟨fun v i => ?_, fun v => decode_error_of_not_legal, fun v i => decode_eq_ok_iff⟩
  rw [decode_eq_ok_iff, encode_eq_ofNat_op, eq_comm]

/-- Settles O20: the failure commit, under the write's own answer. -/
theorem illegalCommandEffect : Obligations.IllegalCommandEffect := by
  intro s rest v hp hv
  obtain ⟨e, he⟩ := decode_error_of_not_legal hv
  rw [step_writeCmd hp, writeCmd_of_decode_error he, illegalCommand_eq_failed]
  rfl

/-- Settles O21: the length check comes before the snapshot, so no byte is drawn. -/
theorem inputLengthTooBig : Obligations.InputLengthTooBig := by
  intro i s h
  rw [exec_tooLong i (Nat.not_le.2 h), tooLong_status, failed, List.append_nil]

/-- Settles O48: each round copies one byte, which the invariant says OUT holds, and draws nothing. -/
theorem copybackCopiesOutput : Obligations.CopybackCopiesOutput := by
  intro s host n hinv hlen hcap hp
  obtain ⟨t, hrun, hframe, hread, hheld⟩ := exists_run_copyback (host := host) (k := 0) (n := n)
    (rest := []) (s := s.withProgram host [.copyback n]) hinv.cfg_valid hinv.outLen_le hinv.out_defined
    (by rw [Nat.zero_add]; exact hlen) (by rw [Nat.zero_add]; exact hcap)
    (by rw [withProgram_copyback, hp])
  refine ⟨t, hrun, ?_, fun k => ?_, hheld⟩
  · rw [hframe, withProgram_copyback, ← hp]
  · rw [hread]
    exact if_congr (by omega) rfl rfl

/-- Settles O49: only a read of the same host changes what it keeps, so the write finds its own read's
answer. -/
theorem copybackWritesItsOwnByte : Obligations.CopybackWritesItsOwnByte := by
  intro s u host a k b mid rest hv hk hp hmid hstep hresp
  obtain ⟨hup, hucfg, huheld⟩ := copyRead_keeps_answer hp hstep hresp
  obtain ⟨t, hrun, htp, htcfg, htheld⟩ := exists_run_keeping_held (host := host) hup (hucfg ▸ hmid)
  have hcfg : t.cfg = s.cfg := htcfg.trans hucfg
  rw [← hcfg] at hv hk htp
  have hwrite := step_writeBack_in hv hk (Memory.readOrDraw_some _ (htheld.trans huheld)) htp
  exact ⟨_, ⟨u, hstep, runsTo_add hrun (runsTo_one hwrite)⟩, rfl, Memory.read_write_same _ _ _⟩

/-- Settles O50: the bus error leaves the host nothing to write, so the write draws. -/
theorem copybackAfterBusErrorGoesOn : Obligations.CopybackAfterBusErrorGoesOn := by
  intro s host a k rest hv hk ha hcase hp
  have hread := step_copyRead_busError ha hcase hp
  have hwrite := step_writeBack_in (s := { s with
      pending := .writeBack host (s.cfg.base + 0x10000 + k) :: rest,
      responses := s.responses ++ [.busError], held := Memory.erase host s.held }) hv hk
    (Memory.readOrDraw_none _ (Memory.read_erase_same _ host)) rfl
  refine ⟨_, runsTo_add (runsTo_one hread) (runsTo_one hwrite), ?_, fun j => s.inBuf.read_write k j _⟩
  rw [List.append_assoc]
  rfl

/-- Settles O18: seven closed words, each run through the decoder. -/
theorem wordsDecodeAsListed : Obligations.WordsDecodeAsListed :=
  ⟨decode_encode .csum, decode_encode .build, decode_encode .parse, rfl, rfl, rfl, rfl⟩

/-- Settles O19: the CMD write is the step, and the word's command is what it runs. -/
theorem stepRunsTheDecodedCommand : Obligations.StepRunsTheDecodedCommand := by
  intro s rest v i hp hd
  obtain ⟨t, ht⟩ := exec_next i { s with pending := rest }
  refine ⟨t, ht, ?_⟩
  rw [step_writeCmd hp, writeCmd_of_decode_ok hd, ht]
  rfl

end Sys2Proof.Proofs
end

section
/-! SUPPORT. The rules of the byte codec family (40_bytecodec.md): each primitive in Nat and list arithmetic, then
the theorems that settle O1 and O2. -/

namespace Sys2Proof.Machine

open Sys2Proof.Claims

/-! ## Packing and unpacking (R120, R121, R124) -/

theorem packUint16_eq_be16 (v : Half) : packUint16 v = be16 v.toNat := by
  have hhi : v.extractLsb' 8 8 = BitVec.ofNat 8 (v.toNat / 256) := by
    rw [BitVec.extractLsb', Nat.shiftRight_eq_div_pow]
  have hlo : v.extractLsb' 0 8 = BitVec.ofNat 8 v.toNat := rfl
  rw [packUint16, hhi, hlo, be16]

@[simp] theorem unpackUint16_pair (hi lo : Byte) : unpackUint16 [hi, lo] = some (word16 hi lo) := rfl

/-- Only a pair of bytes has a value. -/
theorem unpackUint16_of_length_ne {b : Bytes} (h : b.length ≠ 2) : unpackUint16 b = none := by
  match b, h with
  | [], _ | [_], _ | _ :: _ :: _ :: _, _ => rfl
  | [_, _], h => exact absurd rfl h

@[simp] theorem word16_high (hi lo : Byte) : (word16 hi lo).extractLsb' 8 8 = hi := by
  apply BitVec.eq_of_toNat_eq
  rw [BitVec.extractLsb'_toNat, word16_toNat, Nat.shiftRight_eq_div_pow]
  omega

@[simp] theorem word16_low (hi lo : Byte) : (word16 hi lo).extractLsb' 0 8 = lo := by
  apply BitVec.eq_of_toNat_eq
  rw [BitVec.extractLsb'_toNat, word16_toNat, Nat.shiftRight_zero]
  omega

@[simp] theorem packUint16_word16 (hi lo : Byte) : packUint16 (word16 hi lo) = [hi, lo] := by
  rw [packUint16, word16_high, word16_low]

@[simp] theorem unpackUint16_packUint16 (v : Half) : unpackUint16 (packUint16 v) = some v :=
  congrArg some (word16_pack v)

/-! ## Concatenation and equality (R122, R123) -/

theorem concat_eq_flatten (ss : List Bytes) : concat ss = ss.flatten := by
  have := List.foldl_append_eq_append (l := ss) (f := id) (l' := [])
  rwa [List.map_id, List.nil_append] at this

/-- The comparison stops at the first pair that differs, and where one sequence ends before the other. -/
theorem bytesEqual_iff (a b : Bytes) : bytesEqual a b = true ↔ a = b := by
  induction a generalizing b with
  | nil => cases b <;> simp [bytesEqual]
  | cons x xs ih =>
    cases b with
    | nil => simp [bytesEqual]
    | cons y ys =>
      by_cases hxy : x = y
      · simp [bytesEqual, hxy, ih]
      · simp [bytesEqual, hxy]

end Sys2Proof.Machine

/-! ## The obligations -/

namespace Sys2Proof.Proofs

open Sys2Proof.Machine Sys2Proof.Claims

/-- Settles O1: the rules of the four primitives, one by one. -/
theorem byteCodecPrimitives : Obligations.ByteCodecPrimitives := by
  refine ⟨packUint16_eq_be16, fun b hb => ?_, fun b => unpackUint16_of_length_ne, fun ss => ?_,
    bytesEqual_iff⟩
  · obtain ⟨hi, lo, rfl⟩ := List.length_eq_two.1 hb
    exact ⟨word16 hi lo, unpackUint16_pair hi lo, word16_toNat hi lo⟩
  · rw [concat_eq_flatten]
    exact ⟨rfl, List.length_flatten⟩

/-- Settles O2: a pair of bytes is the two halves of its word. -/
theorem packingInvertible : Obligations.PackingInvertible := by
  refine ⟨unpackUint16_packUint16, fun b hb => ?_⟩
  obtain ⟨hi, lo, rfl⟩ := List.length_eq_two.1 hb
  rw [unpackUint16_pair, Option.map_some, packUint16_word16]

end Sys2Proof.Proofs
end

section
/-! SUPPORT. The rules of the checksum family (41_checksum.md): the laws of carry-around addition, the list of
words that the walk adds, and the walk, the statements' index form and the exact total said of that list; then the
theorems that settle O3 to O8 and O24. -/

/-! ## Carry-around addition (R140, R141) -/

namespace Sys2Proof.Machine

/-- R140's fold as the rule writes it: the low 16 bits plus the bits above them. -/
theorem csumAdd_toNat_eq_fold (s w : Half) :
    (csumAdd s w).toNat =
      if s.toNat + w.toNat > 0xFFFF then
        (s.toNat + w.toNat) % 0x10000 + (s.toNat + w.toNat) / 0x10000
      else s.toNat + w.toNat := by
  have hs := s.isLt
  have hw := w.isLt
  rw [csumAdd_toNat]
  split <;> omega

/-- The fold adds 1, so it never ends at 0. -/
theorem csumAdd_eq_zero_iff (s w : Half) : csumAdd s w = 0 ↔ s = 0 ∧ w = 0 := by
  simp only [← BitVec.toNat_inj, csumAdd_toNat, BitVec.ofNat_eq_ofNat, BitVec.toNat_ofNat]
  split <;> omega

/-- R141: the addition is exact modulo 0xFFFF. -/
theorem csumAdd_toNat_mod (s w : Half) :
    (csumAdd s w).toNat % 0xFFFF = (s.toNat + w.toNat) % 0xFFFF := by
  rw [csumAdd_toNat]
  split <;> omega

/-- A sum and its complement add up to all ones, with nothing to fold. -/
theorem csumAdd_not_self (s : Half) : csumAdd s (~~~ s) = 0xFFFF := by
  apply BitVec.eq_of_toNat_eq
  have hs := s.isLt
  have hall : (0xFFFF : Half).toNat = 0xFFFF := rfl
  rw [csumAdd_toNat, BitVec.toNat_not, hall]
  split <;> omega

/-! ## Carry-around addition of a list of words -/

theorem foldl_csumAdd_eq_zero_iff (s : Half) (ws : List Half) :
    ws.foldl csumAdd s = 0 ↔ s = 0 ∧ ∀ w ∈ ws, w = 0 := by
  induction ws generalizing s with
  | nil => simp
  | cons w ws ih => rw [List.foldl_cons, ih, csumAdd_eq_zero_iff, List.forall_mem_cons, and_assoc]

theorem foldl_csumAdd_toNat_mod (s : Half) (ws : List Half) :
    (ws.foldl csumAdd s).toNat % 0xFFFF = (s.toNat + (ws.map BitVec.toNat).sum) % 0xFFFF := by
  induction ws generalizing s with
  | nil => simp
  | cons w ws ih =>
    rw [List.foldl_cons, ih, Nat.add_mod, csumAdd_toNat_mod, ← Nat.add_mod, List.map_cons,
      List.sum_cons, Nat.add_assoc]

end Sys2Proof.Machine

/-! ## The words of a byte sequence (R145, R146) -/

namespace Sys2Proof.Machine

open Sys2Proof.Claims

/-- The words the walk adds, in order: the big-endian pairs (R145), then an odd last byte above a zero byte
(R146). -/
def wordsOf : Bytes → List Half
  | [] => []
  | [b] => [word16 b 0]
  | hi :: lo :: rest => word16 hi lo :: wordsOf rest

theorem word16_zero_low (b : Byte) : word16 b 0 = b.setWidth 16 <<< 8 := by
  simp [word16]

/-- The model's walk is carry-around addition of the words. -/
theorem sumWords_eq_foldl (s : Half) (d : Bytes) : sumWords s d = (wordsOf d).foldl csumAdd s := by
  induction d using wordsOf.induct generalizing s with
  | case1 => rfl
  | case2 b => rw [wordsOf, word16_zero_low]; rfl
  | case3 hi lo rest ih => rw [sumWords_cons_cons, ih]; rfl

/-- Behind a sequence of even length the words are aligned. -/
theorem wordsOf_append {d : Bytes} (e : Bytes) (h : d.length % 2 = 0) :
    wordsOf (d ++ e) = wordsOf d ++ wordsOf e := by
  induction d using wordsOf.induct with
  | case1 => rfl
  | case2 b => simp at h
  | case3 hi lo rest ih =>
    have hrest : rest.length % 2 = 0 := by
      rw [List.length_cons, List.length_cons] at h
      omega
    exact congrArg (word16 hi lo :: ·) (ih hrest)

theorem wordsOf_packUint16 (v : Half) : wordsOf (packUint16 v) = [v] :=
  congrArg (fun w => [w]) (word16_pack v)

theorem word16_eq_zero_iff (hi lo : Byte) : word16 hi lo = 0 ↔ hi = 0 ∧ lo = 0 := by
  simp only [← BitVec.toNat_inj, word16_toNat, BitVec.ofNat_eq_ofNat, BitVec.toNat_ofNat]
  omega

/-- Every word is 0 exactly when every byte is (R151). -/
theorem wordsOf_all_zero_iff (d : Bytes) : (∀ w ∈ wordsOf d, w = 0) ↔ ∀ b ∈ d, b = 0 := by
  induction d using wordsOf.induct with
  | case1 => simp [wordsOf]
  | case2 b => rw [wordsOf, List.forall_mem_singleton, List.forall_mem_singleton, word16_eq_zero_iff,
      and_iff_left rfl]
  | case3 hi lo rest ih =>
    rw [wordsOf, List.forall_mem_cons, ih, word16_eq_zero_iff, List.forall_mem_cons,
      List.forall_mem_cons, and_assoc]

/-! ### The words by their indexes -/

theorem word16_eq_ofNat (hi lo : Byte) : word16 hi lo = BitVec.ofNat 16 (256 * hi.toNat + lo.toNat) := by
  rw [← word16_toNat, BitVec.ofNat_toNat, BitVec.setWidth_eq]

/-- The complete pairs, by index (R145). -/
def pairWords (d : Bytes) : List Half :=
  (List.range (d.length / 2)).map fun i => BitVec.ofNat 16 (beAt d (2 * i))

/-- The word of an odd last byte, by index (R146). -/
def tailWords (d : Bytes) : List Half :=
  if d.length % 2 = 1 then [BitVec.ofNat 16 (256 * byteAt d (d.length - 1))] else []

theorem pairWords_cons_cons (hi lo : Byte) (rest : Bytes) :
    pairWords (hi :: lo :: rest) = word16 hi lo :: pairWords rest := by
  have hlen : (hi :: lo :: rest).length / 2 = rest.length / 2 + 1 :=
    Nat.add_div_right rest.length Nat.two_pos
  rw [pairWords, hlen, List.range_succ_eq_map, List.map_cons, List.map_map, word16_eq_ofNat]
  rfl

theorem tailWords_cons_cons (hi lo : Byte) (rest : Bytes) :
    tailWords (hi :: lo :: rest) = tailWords rest := by
  have hlen : (hi :: lo :: rest).length = rest.length + 2 := rfl
  by_cases hodd : rest.length % 2 = 1
  · have hlast : byteAt (hi :: lo :: rest) (rest.length + 1) = byteAt rest (rest.length - 1) := by
      rw [show rest.length + 1 = rest.length - 1 + 2 by omega]
      rfl
    rw [tailWords, hlen, if_pos (by omega), tailWords, if_pos hodd, ← hlast]
    rfl
  · rw [tailWords, hlen, if_neg (by omega), tailWords, if_neg hodd]

/-- R145 and R146 list the words the walk adds. -/
theorem wordsOf_eq_indexed (d : Bytes) : wordsOf d = pairWords d ++ tailWords d := by
  induction d using wordsOf.induct with
  | case1 => rfl
  | case2 b => simp [wordsOf, word16_eq_ofNat, pairWords, tailWords, byteAt]
  | case3 hi lo rest ih => rw [wordsOf, ih, pairWords_cons_cons, tailWords_cons_cons, List.cons_append]

/-- The index form of the walk is carry-around addition of the words. -/
theorem walkSum_eq_foldl (d : Bytes) : walkSum d = (wordsOf d).foldl csumAdd 0 := by
  have hpairs : pairSum d = (pairWords d).foldl csumAdd 0 := by
    rw [pairSum, pairWords, List.foldl_map]
  rw [wordsOf_eq_indexed, List.foldl_append, ← hpairs, walkSum, tailWords]
  split <;> rfl

/-- The exact total is the sum of the words as numbers. -/
theorem wordTotal_eq_sum (d : Bytes) : wordTotal d = ((wordsOf d).map BitVec.toNat).sum := by
  have hpairs : (pairWords d).map BitVec.toNat = (List.range (d.length / 2)).map fun i => beAt d (2 * i) := by
    rw [pairWords, List.map_map]
    refine List.map_congr_left fun i _ => ?_
    exact Nat.mod_eq_of_lt (Nat.lt_succ_of_le (beAt_le d (2 * i)))
  have htail : ((tailWords d).map BitVec.toNat).sum =
      if d.length % 2 = 1 then 256 * byteAt d (d.length - 1) else 0 := by
    have hbyte : byteAt d (d.length - 1) < 256 := (d.getD (d.length - 1) 0).isLt
    rw [tailWords]
    split
    · simp only [List.map_cons, List.map_nil, List.sum_singleton, BitVec.toNat_ofNat]
      omega
    · rfl
  rw [wordsOf_eq_indexed, List.map_append, List.sum_append, hpairs, htail, wordTotal]

/-! ### The walk's result -/

theorem walkSum_eq_zero_iff (d : Bytes) : walkSum d = 0 ↔ ∀ b ∈ d, b = 0 := by
  rw [walkSum_eq_foldl, foldl_csumAdd_eq_zero_iff, wordsOf_all_zero_iff, and_iff_right rfl]

theorem walkSum_toNat_mod (d : Bytes) : (walkSum d).toNat % 0xFFFF = wordTotal d % 0xFFFF := by
  rw [walkSum_eq_foldl, foldl_csumAdd_toNat_mod, ← wordTotal_eq_sum]
  exact congrArg (· % 0xFFFF) (Nat.zero_add _)

theorem wordTotal_eq_zero_iff (d : Bytes) : wordTotal d = 0 ↔ ∀ b ∈ d, b = 0 := by
  rw [wordTotal_eq_sum, ← wordsOf_all_zero_iff, List.sum_eq_zero_iff, List.forall_mem_map]
  simp only [← BitVec.toNat_inj, BitVec.ofNat_eq_ofNat, BitVec.toNat_ofNat, Nat.zero_mod]

/-- R147: from two bytes on, the checksum is the complement of the walk. -/
theorem checksum_eq_not_walkSum {d : Bytes} (h : 2 ≤ d.length) : checksum d = ~~~ (walkSum d) := by
  rw [walkSum_eq_foldl, ← sumWords_eq_foldl]
  match d, h with
  | _ :: _ :: _, _ => rfl

/-- Words behind a sequence of even length are added to its sum. -/
theorem walkSum_append_packUint16 {d : Bytes} (v : Half) (h : d.length % 2 = 0) :
    walkSum (d ++ packUint16 v) = csumAdd (walkSum d) v := by
  rw [walkSum_eq_foldl, wordsOf_append _ h, wordsOf_packUint16, List.foldl_append, ← walkSum_eq_foldl]
  rfl

/-- R144: a single byte stands in the low half of its word. -/
theorem checksum_singleton_toNat (b : Byte) : (checksum [b]).toNat = 0xFF00 + (255 - b.toNat) := by
  have hb := b.isLt
  rw [checksum, BitVec.toNat_not, BitVec.toNat_setWidth]
  omega

end Sys2Proof.Machine

/-! ## The obligations -/

namespace Sys2Proof.Proofs

open Sys2Proof.Machine Sys2Proof.Claims

/-- Settles O5: the model's walk and the index form add the same words. -/
theorem checksumFollowsTheWalk : Obligations.ChecksumFollowsTheWalk :=
  ⟨rfl, checksum_singleton_toNat, fun _ => checksum_eq_not_walkSum, by decide⟩

/-- Settles O6: carry-around addition is exact modulo 0xFFFF, and gives 0 only for words that are all 0. -/
theorem checksumIsOnesComplementSum : Obligations.ChecksumIsOnesComplementSum := by
  intro d hd
  rw [checksum_eq_not_walkSum hd, BitVec.not_not]
  exact ⟨walkSum_toNat_mod d, (walkSum_eq_zero_iff d).trans (wordTotal_eq_zero_iff d).symm⟩

/-- Settles O7: the complement carries the walk's two extremes to the checksum. -/
theorem checksumExtremes : Obligations.ChecksumExtremes := by
  intro d hd
  rw [checksum_eq_not_walkSum hd]
  have hones : ~~~ (walkSum d) = 0xFFFF ↔ walkSum d = 0 := BitVec.not_eq_comm
  have hzero : ~~~ (walkSum d) = 0 ↔ walkSum d = 0xFFFF := BitVec.not_eq_comm
  exact ⟨walkSum_eq_zero_iff d, hones.trans (walkSum_eq_zero_iff d), hzero⟩

/-- Settles O8: the checksum is the complement of the sum it is added to. -/
theorem appendedChecksumVerifies : Obligations.AppendedChecksumVerifies := by
  intro d hd heven
  have hlen : 2 ≤ (d ++ packUint16 (checksum d)).length := by
    rw [List.length_append]
    omega
  rw [checksum_eq_not_walkSum hlen, walkSum_append_packUint16 _ heven, checksum_eq_not_walkSum hd,
    csumAdd_not_self]
  rfl

/-- Settles O24: the two cases of the length check. -/
theorem csumEffect : Obligations.CsumEffect := by
  refine ⟨decode_encode .csum, fun s => ⟨fun hfits => ?_, fun hlong => ?_⟩⟩
  · rw [exec_csum hfits, BitVec.ofNat_toNat]
    rfl
  · rw [exec_tooLong .csum (Nat.not_le.2 hlong), failed, List.append_nil]
    rfl

/-- Settles O3: R140 as a number, and its worked cases. -/
theorem carryAroundAddition : Obligations.CarryAroundAddition :=
  ⟨csumAdd_toNat_eq_fold, zero_csumAdd, by decide, by decide, by decide⟩

/-- Settles O4: each operand is at most 0xFFFF, and the fold never ends at 0. -/
theorem carryAroundZeroOnlyFromZeros : Obligations.CarryAroundZeroOnlyFromZeros := by
  intro s w
  refine ⟨?_, csumAdd_eq_zero_iff s w⟩
  have hs := s.isLt
  have hw := w.isLt
  omega

end Sys2Proof.Proofs
end

section
/-! SUPPORT. The rules of the encoding of datagrams (42_encode.md): the byte form in the statements' words, each
case of the encode, the two round trips of the core, BUILD's failures and its success, and the bytes a command takes
from what a host wrote; then the theorems that settle O9, O13, O14, O25 and O51. -/

/-! ## The encode, case by case (R170 to R174) -/

namespace Sys2Proof.Machine

open Sys2Proof.Claims

variable {src dst : Half} {data b : Bytes} {ns : List Notification}

theorem half_toNat_eq_zero_iff (v : Half) : v.toNat = 0 ↔ v = 0 := BitVec.toNat_inj (y := 0)

@[simp] theorem wireForm_length (src dst len csum : Half) (data : Bytes) :
    (wireForm src dst len csum data).length = 8 + data.length := by
  rw [wireForm_eq]
  simp only [List.length_cons]
  omega

@[simp] theorem wire_length (src dst csum : Nat) (data : Bytes) :
    (wire src dst csum data).length = 8 + data.length := by
  simp only [wire, be16, List.length_append, List.length_cons, List.length_nil]

/-- The byte form is the wire format of 20_memory.md R60, whose length field an accepted payload fits. -/
theorem wireForm_eq_wire (src dst csum : Half) (h : data.length ≤ Config.maxPayload) :
    wireForm src dst (lengthField data) csum data = wire src.toNat dst.toNat csum.toNat data := by
  rw [wireForm, concat_eq_flatten, packUint16_eq_be16, packUint16_eq_be16, packUint16_eq_be16,
    packUint16_eq_be16, lengthField_toNat h, wire]
  simp only [List.flatten_cons, List.flatten_nil, List.append_nil, List.append_assoc]

/-- A zero destination port fails before the payload is looked at. -/
theorem buildDatagram_noPort (src : Half) (data : Bytes) :
    buildDatagram src 0 data = fatal [] .invalidDstPort 0 0 := if_pos rfl

theorem buildDatagram_empty (src : Half) (hd : dst ≠ 0) :
    buildDatagram src dst [] = fatal [] .emptyPayload 0 0 := if_neg hd

theorem buildDatagram_tooLong (src : Half) (hd : dst ≠ 0) (h : Config.maxPayload < data.length) :
    buildDatagram src dst data =
      fatal [] .payloadTooLong (lengthArg data.length) (BitVec.ofNat 32 Config.maxPayload) := by
  rw [buildDatagram, if_neg hd, if_neg (by omega), if_pos h]

/-- The one warning of an encode (R171). -/
def srcWarnings (src : Half) : List Notification := if src = 0 then [warnNote .srcPortZero] else []

/-- The fatal checks pass: the source port's warning and the byte form. -/
theorem buildDatagram_pass (src : Half) (hd : dst ≠ 0) (h1 : 1 ≤ data.length)
    (h2 : data.length ≤ Config.maxPayload) :
    buildDatagram src dst data =
      ⟨srcWarnings src, .ok (wireForm src dst (lengthField data) (checksum data) data)⟩ := by
  rw [buildDatagram, if_neg hd, if_neg (by omega), if_neg (by omega)]
  rfl

/-! ## The round trips of the core (R176) -/

/-- The datagram that an encode writes down. -/
def builtDatagram (src dst : Half) (data : Bytes) : Datagram where
  sourcePort := src
  destinationPort := dst
  length := lengthField data
  checksum := checksum data
  data := data

/-- Every encoded datagram decodes to what was encoded. -/
theorem parseDatagram_of_build (h : buildDatagram src dst data = ⟨ns, .ok b⟩) :
    parseDatagram b =
      ⟨fieldWarnings (builtDatagram src dst data), .ok (builtDatagram src dst data)⟩ := by
  obtain ⟨hd, -, hmax, rfl⟩ := buildDatagram_ok h
  rw [parseDatagram_wireForm]
  exact checkFields_pass (lengthField_toNat hmax).symm hd

/-- R203's warnings in the statements' words. -/
theorem fieldWarnings_eq_decodeWarnings (g : Datagram) :
    fieldWarnings g = decodeWarnings g.checksum.toNat g.sourcePort.toNat := by
  simp only [fieldWarnings, decodeWarnings, half_toNat_eq_zero_iff]
  rfl

/-- A decoded sequence is the byte form of its own fields. -/
theorem eq_wireForm_of_parseDatagram {g : Datagram} (h : parseDatagram b = ⟨ns, .ok g⟩) :
    b = wireForm g.sourcePort g.destinationPort g.length g.checksum g.data := by
  have hlen : 8 ≤ b.length := by
    have := (parseDatagram_ok h).1
    omega
  obtain ⟨s0, s1, d0, d1, l0, l1, c0, c1, data, rfl⟩ := exists_header hlen
  obtain ⟨rfl, -, -⟩ := checkFields_ok (congrArg Emission.result h)
  simp only [wireForm_eq, word16_high, word16_low]

/-- A decoded datagram with a payload and its payload's own checksum encodes to the sequence it came from. -/
theorem buildDatagram_of_parse {g : Datagram} (h : parseDatagram b = ⟨ns, .ok g⟩) (hdata : g.data ≠ [])
    (hcsum : g.checksum = checksum g.data) :
    buildDatagram g.sourcePort g.destinationPort g.data = ⟨srcWarnings g.sourcePort, .ok b⟩ := by
  obtain ⟨hsize, hfield, hport⟩ := parseDatagram_ok h
  have hmax : g.data.length ≤ Config.maxPayload := by
    have := g.length.isLt
    unfold Config.maxPayload
    omega
  have hlen : lengthField g.data = g.length :=
    BitVec.eq_of_toNat_eq ((lengthField_toNat hmax).trans (hsize.symm.trans hfield))
  rw [buildDatagram_pass _ hport (List.length_pos_iff.2 hdata) hmax, hlen, ← hcsum,
    ← eq_wireForm_of_parseDatagram h]

end Sys2Proof.Machine

/-! ## BUILD (R175) -/

namespace Sys2Proof.Machine

open Sys2Proof.Claims

variable {s t : State}

theorem srcOperand_toNat (s : State) : (srcOperand s).toNat = srcOf s := by
  simp [srcOperand, srcOf]

theorem dstOperand_toNat (s : State) : (dstOperand s).toNat = dstOf s := by
  simp [dstOperand, dstOf]

theorem dstOperand_eq_zero_iff (s : State) : dstOperand s = 0 ↔ dstOf s = 0 := by
  rw [← dstOperand_toNat, half_toNat_eq_zero_iff]

theorem srcWarnings_srcOperand (s : State) :
    srcWarnings (srcOperand s) = if srcOf s = 0 then [warnNote .srcPortZero] else [] := by
  simp only [srcWarnings, ← srcOperand_toNat, half_toNat_eq_zero_iff]

/-- A successful BUILD's STATUS: WSRC beside LASTOP. -/
theorem build_status (src : Half) :
    Status.afterNotes (Status.start Instr.build.opcode) (srcWarnings src) =
      BitVec.ofNat 32 (0x200 + if src.toNat = 0 then 0x10 else 0) := by
  by_cases h : src = 0
  · subst h
    rfl
  · rw [srcWarnings, if_neg h, if_neg (mt (half_toNat_eq_zero_iff src).1 h)]
    rfl

/-- R175, when the core's encode fails, in the statements' words. -/
theorem exec_build_failed {c : Code} {a0 a1 : Word} (h : lengthFits s)
    (hr : buildDatagram (srcOperand s) (dstOperand s) (inputOf s) = fatal [] c a0 a1) :
    exec .build s = .next
      (failed (Status.setErr (Status.start Instr.build.opcode) c.num) a0 a1 [errorNote c a0 a1]
        (inputTaken s).2 s) :=
  exec_build_error h hr

/-- R175, when the core's encode succeeds, in the statements' words. -/
theorem exec_build_pass (h : lengthFits s) (hd : dstOf s ≠ 0) (h1 : 1 ≤ s.inLen.toNat)
    (h2 : s.inLen.toNat ≤ Config.maxPayload) :
    exec .build s = .next
      { s with
        status := BitVec.ofNat 32 (0x200 + if srcOf s = 0 then 0x10 else 0),
        errArg0 := 0, errArg1 := 0,
        resSrc := BitVec.ofNat 32 (srcOf s), resDst := BitVec.ofNat 32 (dstOf s),
        resLen := BitVec.ofNat 32 (8 + s.inLen.toNat),
        resCsum := BitVec.ofNat 32 (checksum (inputOf s)).toNat,
        outBuf := Memory.writeFrom 0
          (wire (srcOf s) (dstOf s) (checksum (inputOf s)).toNat (inputOf s)) s.outBuf,
        outLen := BitVec.ofNat 32 (8 + s.inLen.toNat),
        notes := s.notes ++ (if srcOf s = 0 then [warnNote .srcPortZero] else []),
        draws := (inputTaken s).2 } := by
  rw [← inputOf_length] at h1 h2
  rw [exec_build_ok h (buildDatagram_pass _ (mt (dstOperand_eq_zero_iff s).1 hd) h1 h2), build_status,
    srcWarnings_srcOperand, wireForm_length, wireForm_eq_wire _ _ _ h2]
  simp only [← BitVec.ofNat_toNat, srcOperand_toNat, dstOperand_toNat, lengthField_toNat h2,
    inputOf_length]

/-- A BUILD without an error is one whose length fits and whose encode succeeds. -/
theorem exec_build_succeeded (h : exec .build s = .next t) (herr : Status.err t.status = 0) :
    lengthFits s ∧ ∃ ns b, buildDatagram (srcOperand s) (dstOperand s) (inputOf s) = ⟨ns, .ok b⟩ := by
  by_cases hf : lengthFits s
  · refine ⟨hf, ?_⟩
    rcases buildDatagram_shape (srcOperand s) (dstOperand s) (inputOf s) with
      ⟨ws, c, a0, a1, he, -, hlo, -⟩ | ⟨ns, b, he, -⟩
    · rw [exec_build_error hf he] at h
      cases h
      rw [Status.err_setErr] at herr
      rw [herr] at hlo
      exact absurd hlo (by decide)
    · exact ⟨ns, b, he⟩
  · rw [exec_tooLong .build hf] at h
    cases h
    rw [Status.err_setErr] at herr
    exact absurd herr (by decide)

end Sys2Proof.Machine

/-! ## The input a host wrote (20_memory.md R74) -/

namespace Sys2Proof.Machine

/-- IN holding the bytes `b`, with their number in IN_LEN, is the input `b`. -/
theorem inputOf_eq_of_reads {s : State} {b : Bytes} (hlen : s.inLen.toNat = b.length)
    (h : ∀ k, k < b.length → s.inBuf.read k = b[k]?) : inputOf s = b := by
  have hw : ∀ k, k < s.inLen.toNat → s.inBuf.written k = true := fun k hk => by
    rw [hlen] at hk
    rw [Memory.written, h k hk, List.getElem?_eq_getElem hk, Option.isSome_some]
  apply List.ext_getElem?
  intro k
  by_cases hk : k < b.length
  · rw [(inputTaken_written s hw).2 k (hlen ▸ hk), h k hk]
  · rw [List.getElem?_eq_none (by simpa [hlen] using hk), List.getElem?_eq_none (by omega)]

end Sys2Proof.Machine

/-! ## The obligations -/

namespace Sys2Proof.Proofs

open Sys2Proof.Machine Sys2Proof.Claims

/-- Settles O13: the encode's checks pass, and its byte form decodes to its own fields. -/
theorem encodeThenDecode : Obligations.EncodeThenDecode := by
  intro src dst data hd h1 h2
  have hb := buildDatagram_pass src hd h1 h2
  refine ⟨_, congrArg Emission.result hb, ?_⟩
  rw [parseDatagram_of_build hb, fieldWarnings_eq_decodeWarnings]
  rfl

/-- Settles O51: the PARSE takes the very bytes the BUILD stored, and the core's round trip gives back its fields. -/
theorem shellRoundTrip : Obligations.ShellRoundTrip := by
  intro s t u h herr hlen hcap hin
  obtain ⟨hf, ns, b, hb⟩ := exec_build_succeeded h herr
  rw [exec_build_ok hf hb] at h
  cases h
  obtain ⟨-, -, hmax, hwire⟩ := buildDatagram_ok hb
  have hsize : (BitVec.ofNat 32 b.length).toNat = b.length := by
    rw [hwire, wireForm_length, BitVec.toNat_ofNat]
    unfold Config.maxPayload at hmax
    omega
  have hinput : inputOf u = b :=
    inputOf_eq_of_reads ((congrArg BitVec.toNat hlen).trans hsize) fun k hk =>
      (hin k (hsize.symm ▸ hk)).trans (Memory.read_writeFrom_zero _ hk)
  have hparse := parseDatagram_of_build hb
  rw [← hinput] at hparse
  have hfits : lengthFits u := (congrArg BitVec.toNat hlen).trans_le hcap
  refine ⟨_, exec_parse_ok hfits hparse, by simp, rfl, rfl, rfl, rfl, ?_, fun k hk => ?_⟩
  · show BitVec.ofNat 32 (inputOf s).length = s.inLen
    rw [inputOf_length, BitVec.ofNat_toNat, BitVec.setWidth_eq]
  · exact Memory.read_writeFrom_zero _ (by simpa [builtDatagram] using hk)

/-- Settles O9: the cases of the encode, in the order of its checks. -/
theorem buildDatagramResult : Obligations.BuildDatagramResult := by
  intro src dst data
  refine ⟨fun hd => hd ▸ buildDatagram_noPort src data, fun hd h => h ▸ buildDatagram_empty src hd,
    fun hd h hlt => ?_, fun hd h1 h2 => ?_⟩
  · rw [buildDatagram_tooLong src hd h, lengthArg_of_lt hlt]
    rfl
  · rw [buildDatagram_pass src hd h1 h2, wireForm_eq_wire _ _ _ h2]
    rfl

/-- Settles O14: the sequence is the byte form of the datagram it decodes to. -/
theorem decodeThenEncode : Obligations.DecodeThenEncode := fun b _ h hdata hcsum =>
  congrArg Emission.result
    (buildDatagram_of_parse (congrArg (Emission.mk (parseDatagram b).notes) h) hdata hcsum)

/-- Settles O25: the length check, then the cases of the encode on the snapshot. -/
theorem buildEffect : Obligations.BuildEffect := by
  refine ⟨decode_encode .build, fun s => ⟨fun hlong => ?_, fun hfits hd => ?_, fun hfits hd h0 => ?_,
    fun hfits hd hlong => ?_, fun hfits hd h1 h2 => ?_⟩⟩
  · rw [exec_tooLong .build (Nat.not_le.2 hlong), failed, List.append_nil]
    rfl
  · have hr := buildDatagram_noPort (srcOperand s) (inputOf s)
    rw [← (dstOperand_eq_zero_iff s).2 hd] at hr
    exact exec_build_failed hfits hr
  · have hr := buildDatagram_empty (srcOperand s) (mt (dstOperand_eq_zero_iff s).1 hd)
    rw [← List.length_eq_zero_iff.1 ((inputOf_length s).trans h0)] at hr
    exact exec_build_failed hfits hr
  · have hr := buildDatagram_tooLong (srcOperand s) (mt (dstOperand_eq_zero_iff s).1 hd)
      (hlong.trans_eq (inputOf_length s).symm)
    rw [inputOf_length, lengthArg_of_lt s.inLen.isLt, BitVec.ofNat_toNat, BitVec.setWidth_eq] at hr
    exact exec_build_failed hfits hr
  · refine ⟨_, exec_build_pass hfits hd h1 h2, rfl, fun k => ?_⟩
    rw [Memory.read_writeFrom, wire_length, inputOf_length]
    simp only [Nat.zero_le, true_and, Nat.zero_add, Nat.sub_zero]

end Sys2Proof.Proofs
end

section
/-! SUPPORT. The rules of the decoding of datagrams (43_decode.md): the fields of a header in the statements' words,
each case of the decode, and PARSE's failures and its success; then the theorems that settle O10, O11 and O26. -/

/-! ## The decode, case by case (R200 to R204) -/

namespace Sys2Proof.Machine

open Sys2Proof.Claims

variable {b : Bytes}

/-- A big-endian field loses nothing in 16 bits. -/
@[simp] theorem ofNat_beAt_toNat (b : Bytes) (i : Nat) : (BitVec.ofNat 16 (beAt b i)).toNat = beAt b i :=
  Nat.mod_eq_of_lt (Nat.lt_succ_of_le (beAt_le b i))

theorem ofNat_beAt_eq_zero_iff (b : Bytes) (i : Nat) : BitVec.ofNat 16 (beAt b i) = 0 ↔ beAt b i = 0 := by
  rw [← half_toNat_eq_zero_iff, ofNat_beAt_toNat]

/-- A field in a 32-bit argument or register. -/
theorem ofNat_beAt_setWidth (b : Bytes) (i : Nat) :
    (BitVec.ofNat 16 (beAt b i)).setWidth 32 = BitVec.ofNat 32 (beAt b i) := by
  rw [← BitVec.ofNat_toNat, ofNat_beAt_toNat]

/-- The four fields of a header and the rest, by index (R202). -/
def headerFields (b : Bytes) : Datagram where
  sourcePort := BitVec.ofNat 16 (beAt b 0)
  destinationPort := BitVec.ofNat 16 (beAt b 2)
  length := BitVec.ofNat 16 (beAt b 4)
  checksum := BitVec.ofNat 16 (beAt b 6)
  data := b.drop 8

/-- From eight bytes on, a decode is the checks on the header's fields (R200). -/
theorem parseDatagram_eq_checkFields (h : 8 ≤ b.length) :
    parseDatagram b = checkFields b.length (headerFields b) := by
  obtain ⟨s0, s1, d0, d1, l0, l1, c0, c1, data, rfl⟩ := exists_header h
  simp only [parseDatagram, word16_eq_ofNat]
  rfl

theorem headerFields_length_toNat (b : Bytes) : (headerFields b).length.toNat = beAt b 4 :=
  ofNat_beAt_toNat b 4

/-- R203's warnings on a header's fields. -/
theorem fieldWarnings_headerFields (b : Bytes) :
    fieldWarnings (headerFields b) = decodeWarnings (beAt b 6) (beAt b 0) := by
  rw [fieldWarnings_eq_decodeWarnings]
  exact congrArg₂ decodeWarnings (ofNat_beAt_toNat b 6) (ofNat_beAt_toNat b 0)

/-- R201: no header. -/
theorem parseDatagram_truncated (h : b.length < 8) :
    parseDatagram b = failing [] .truncatedHeader (BitVec.ofNat 32 b.length) 0 := by
  rw [parseDatagram_short h, lengthArg_of_lt (by omega)]
  rfl

/-- R203's check 1 fails. -/
theorem parseDatagram_mismatch (h : 8 ≤ b.length) (hlt : b.length < 2 ^ 32) (hne : b.length ≠ beAt b 4) :
    parseDatagram b =
      failing [] .lengthMismatch (BitVec.ofNat 32 (beAt b 4)) (BitVec.ofNat 32 b.length) := by
  rw [← headerFields_length_toNat] at hne
  rw [parseDatagram_eq_checkFields h, checkFields_mismatch hne, lengthArg_of_lt hlt,
    ← ofNat_beAt_setWidth]
  rfl

/-- R203's check 4 fails, after the warnings. -/
theorem parseDatagram_noPort (h : 8 ≤ b.length) (hlen : b.length = beAt b 4) (hd : beAt b 2 = 0) :
    parseDatagram b = failing (decodeWarnings (beAt b 6) (beAt b 0)) .invalidDstPort 0 0 := by
  rw [← headerFields_length_toNat] at hlen
  rw [parseDatagram_eq_checkFields h, checkFields_noPort hlen ((ofNat_beAt_eq_zero_iff b 2).2 hd),
    fieldWarnings_headerFields]
  rfl

/-- R203's fatal checks pass. -/
theorem parseDatagram_pass (h : 8 ≤ b.length) (hlen : b.length = beAt b 4) (hd : beAt b 2 ≠ 0) :
    parseDatagram b = ⟨decodeWarnings (beAt b 6) (beAt b 0), .ok (headerFields b)⟩ := by
  rw [← headerFields_length_toNat] at hlen
  rw [parseDatagram_eq_checkFields h,
    checkFields_pass hlen (mt (ofNat_beAt_eq_zero_iff b 2).1 hd), fieldWarnings_headerFields]

end Sys2Proof.Machine

/-! ## PARSE (R205) -/

namespace Sys2Proof.Machine

open Sys2Proof.Claims

variable {s : State}

/-- An ERROR record sets no warning bit (R247). -/
theorem afterNotes_append_errorNote (st : Word) (ws : List Notification) (c : Code) (a0 a1 : Word) :
    Status.afterNotes st (ws ++ [errorNote c a0 a1]) = Status.afterNotes st ws := by
  rw [Status.afterNotes, List.foldl_append, Status.afterNotes]
  rfl

/-- A PARSE's STATUS after its warnings: WCSUM and WSRC beside LASTOP. -/
theorem parse_status (csum src : Nat) :
    Status.afterNotes (Status.start Instr.parse.opcode) (decodeWarnings csum src) =
      BitVec.ofNat 32 (0x300 + warnBits csum src) := by
  unfold decodeWarnings warnBits
  split <;> split <;> rfl

/-- R246's ERR = 1 beside the warning bits. -/
theorem parse_status_noPort (csum src : Nat) :
    Status.setErr (BitVec.ofNat 32 (0x300 + warnBits csum src)) Code.invalidDstPort.num =
      BitVec.ofNat 32 (0x301 + warnBits csum src) := by
  unfold warnBits
  split <;> split <;> rfl

/-- R205, when the core's decode fails, in the statements' words. -/
theorem exec_parse_failed {ws : List Notification} {c : Code} {a0 a1 : Word} (h : lengthFits s)
    (hr : parseDatagram (inputOf s) = failing ws c a0 a1) :
    exec .parse s = .next
      (failed (Status.setErr (Status.afterNotes (Status.start Instr.parse.opcode) ws) c.num) a0 a1
        (ws ++ [errorNote c a0 a1]) (inputTaken s).2 s) := by
  rw [exec_parse_error h hr, afterNotes_append_errorNote]
  rfl

/-- R205, when the core's decode succeeds, in the statements' words. -/
theorem exec_parse_pass (h : lengthFits s) (h8 : 8 ≤ s.inLen.toNat)
    (hlen : beAt (inputOf s) 4 = s.inLen.toNat) (hd : beAt (inputOf s) 2 ≠ 0) :
    exec .parse s = .next
      { s with
        status := BitVec.ofNat 32 (0x300 + warnBits (beAt (inputOf s) 6) (beAt (inputOf s) 0)),
        errArg0 := 0, errArg1 := 0,
        resSrc := BitVec.ofNat 32 (beAt (inputOf s) 0),
        resDst := BitVec.ofNat 32 (beAt (inputOf s) 2),
        resLen := BitVec.ofNat 32 (beAt (inputOf s) 4),
        resCsum := BitVec.ofNat 32 (beAt (inputOf s) 6),
        outBuf := Memory.writeFrom 0 ((inputOf s).drop 8) s.outBuf,
        outLen := BitVec.ofNat 32 (s.inLen.toNat - 8),
        notes := s.notes ++ decodeWarnings (beAt (inputOf s) 6) (beAt (inputOf s) 0),
        draws := (inputTaken s).2 } := by
  have hr := parseDatagram_pass (b := inputOf s) (by rwa [inputOf_length])
    (by rw [inputOf_length, hlen]) hd
  rw [exec_parse_ok h hr, parse_status]
  simp only [headerFields, ofNat_beAt_setWidth, List.length_drop, inputOf_length]

end Sys2Proof.Machine

/-! ## The obligations -/

namespace Sys2Proof.Proofs

open Sys2Proof.Machine Sys2Proof.Claims

/-- Settles O10: the cases of the decode, in the order of its checks. -/
theorem parseDatagramResult : Obligations.ParseDatagramResult := fun _ hlt =>
  ⟨parseDatagram_truncated, fun h8 hne => parseDatagram_mismatch h8 hlt hne, parseDatagram_noPort,
    parseDatagram_pass⟩

/-- Settles O11: the wire format is the byte form of its fields, and no check looks at the checksum. -/
theorem decodeTrustsChecksumField : Obligations.DecodeTrustsChecksumField := by
  intro src dst csum data hd hmax
  rw [← wireForm_eq_wire src dst csum hmax, parseDatagram_wireForm,
    checkFields_pass (lengthField_toNat hmax).symm hd]
  rfl

/-- Settles O26: the length check, then the cases of the decode on the snapshot. -/
theorem parseEffect : Obligations.ParseEffect := by
  refine ⟨decode_encode .parse, fun s => ⟨fun hlong => ?_, fun hfits h8 => ?_, fun hfits h8 hne => ?_,
    fun hfits h8 hlen hd => ?_, fun hfits h8 hlen hd => ?_⟩⟩
  · rw [exec_tooLong .parse (Nat.not_le.2 hlong), failed, List.append_nil]
    rfl
  · have hr := parseDatagram_truncated ((inputOf_length s).trans_lt h8)
    rw [inputOf_length, BitVec.ofNat_toNat, BitVec.setWidth_eq] at hr
    exact exec_parse_failed hfits hr
  · rw [← inputOf_length] at h8 hne
    have hr := parseDatagram_mismatch h8 (by rw [inputOf_length]; exact s.inLen.isLt) hne.symm
    rw [inputOf_length, BitVec.ofNat_toNat _ s.inLen, BitVec.setWidth_eq] at hr
    exact exec_parse_failed hfits hr
  · rw [← inputOf_length] at h8 hlen
    rw [exec_parse_failed hfits (parseDatagram_noPort h8 hlen.symm hd), parse_status,
      parse_status_noPort]
  · refine ⟨_, exec_parse_pass hfits h8 hlen hd, rfl, fun k => ?_⟩
    rw [Memory.read_writeFrom, List.length_drop, inputOf_length, List.getElem?_drop]
    simp only [Nat.zero_le, true_and, Nat.zero_add, Nat.sub_zero]

end Sys2Proof.Proofs
end


section

namespace Sys2Proof.Machine

/-! ## Datagram equality (R230, R231) -/

@[simp] theorem datagramEquals_none (a : Datagram) : datagramEquals a none = false := rfl

/-- The comparison goes field by field: the header fields exactly, the payload byte by byte. -/
theorem datagramEquals_some_iff_fields (a o : Datagram) :
    datagramEquals a (some o) = true ↔
      a.sourcePort = o.sourcePort ∧ a.destinationPort = o.destinationPort ∧
        a.length = o.length ∧ a.checksum = o.checksum ∧ a.data = o.data := by
  simp only [datagramEquals, Bool.and_eq_true, beq_iff_eq, bytesEqual_iff, and_assoc]

/-- A datagram has no part besides the five that are compared. -/
@[simp] theorem datagramEquals_some_iff (a o : Datagram) :
    datagramEquals a (some o) = true ↔ a = o := by
  rw [datagramEquals_some_iff_fields]
  cases a
  cases o
  rw [Datagram.mk.injEq]

end Sys2Proof.Machine

/-! ## The obligation -/

namespace Sys2Proof.Proofs

open Sys2Proof.Machine

/-- Settles O16: equality of the five fields is equality of datagrams, and nothing equals an absent one. -/
theorem datagramEqualityIsByValue : Obligations.DatagramEqualityIsByValue :=
  ⟨datagramEquals_some_iff, datagramEquals_none⟩

end Sys2Proof.Proofs
end

section
/-! SUPPORT. The rules of the exceptions family (60_exceptions.md): the notification of an error, STATUS and the stream
after a command, the first failing check of a CMD write, what a failed command leaves, what the stream takes in a step,
and where a step stops; then the theorems that settle O15, O27, O29, O30, O43 and O44. -/

/-! ## The records a core operation emits (R240 to R244) -/

namespace Sys2Proof.Machine

open Sys2Proof.Claims

theorem isWarning.level_eq {n : Notification} (h : isWarning n) : n.level = .warn := by
  rcases h with rfl | rfl <;> rfl

theorem isWarning.legalNote {n : Notification} (h : isWarning n) : legalNote n := by
  rcases h with rfl | rfl
  · exact .inl ⟨rfl, .inl rfl, rfl, rfl⟩
  · exact .inl ⟨rfl, .inr rfl, rfl, rfl⟩

/-- A failed core operation notifies its own error last, after warnings only. -/
theorem Emission.Shape.error_last {α : Type} {e : Emission α} {c : Code} {a0 a1 : Word} (h : e.Shape)
    (hr : e.result = .error c a0 a1) :
    ∃ ws, e.notes = ws ++ [errorNote c a0 a1] ∧ (∀ n ∈ ws, n.level = .warn) ∧
      1 ≤ c.num.toNat ∧ c.num.toNat ≤ 5 := by
  cases h with
  | error ws c' a0' a1' he hw hlo hhi =>
    subst he
    cases hr
    exact ⟨ws, rfl, fun n hn => (hw n hn).level_eq, hlo, hhi⟩
  | ok ns r he _ =>
    subst he
    cases hr

/-- A core operation that succeeds emits warnings only. -/
theorem Emission.Shape.warns_of_ok {α : Type} {e : Emission α} {r : α} (h : e.Shape)
    (hr : e.result = .ok r) : ∀ n ∈ e.notes, n.level = .warn := by
  cases h with
  | error ws c a0 a1 he _ _ _ =>
    subst he
    cases hr
  | ok ns r' he hw =>
    subst he
    exact fun n hn => (hw n hn).level_eq

end Sys2Proof.Machine

/-! ## STATUS and the stream after a command (R243, R247) -/

namespace Sys2Proof.Machine

open Sys2Proof.Claims

variable {i : Instr} {s t : State} {v : Word} {ns : List Notification}

/-- Among the legal records each warning bit is set by one record only. -/
theorem isSrcWarning_iff {n : Notification} (h : legalNote n) :
    Status.isSrcWarning n = true ↔ n = warnNote .srcPortZero := by
  obtain ⟨l, c, a0, a1⟩ := n
  rcases h with ⟨rfl, -, rfl, rfl⟩ | ⟨rfl, -⟩ <;> simp [Status.isSrcWarning, warnNote]

theorem isCsumWarning_iff {n : Notification} (h : legalNote n) :
    Status.isCsumWarning n = true ↔ n = warnNote .checksumZero := by
  obtain ⟨l, c, a0, a1⟩ := n
  rcases h with ⟨rfl, -, rfl, rfl⟩ | ⟨rfl, -⟩ <;> simp [Status.isCsumWarning, warnNote]

/-- A test that only the record `w` passes finds it exactly in the lists that hold it. -/
theorem any_iff_mem {p : Notification → Bool} {w : Notification} (hns : ∀ n ∈ ns, legalNote n)
    (hw : legalNote w) (hp : ∀ n, legalNote n → (p n = true ↔ n = w)) : ns.any p = true ↔ w ∈ ns := by
  rw [List.any_eq_true]
  refine ⟨fun ⟨n, hn, h⟩ => (hp n (hns n hn)).1 h ▸ hn, fun h => ⟨w, h, (hp w hw).2 rfl⟩⟩

/-- What STATUS says of a run of the command `i` that emitted `ns`: LASTOP, an error code of R240, no reserved bit,
and the warning bits. -/
structure StatusFor (i : Instr) (ns : List Notification) (st : Word) : Prop where
  lastOp : Status.lastOp st = i.opcode
  err_le : (Status.err st).toNat ≤ 7
  reserved : Status.reservedClear st
  wsrc : Status.wsrc st = ns.any Status.isSrcWarning
  wcsum : Status.wcsum st = ns.any Status.isCsumWarning

theorem statusFor_afterNotes (i : Instr) (ns : List Notification) :
    StatusFor i ns (Status.afterNotes (Status.start i.opcode) ns) where
  lastOp := by simp
  err_le := by simp
  reserved := Status.reservedClear_afterNotes ns (Status.reservedClear_start i.opcode)
  wsrc := by simp
  wcsum := by simp

/-- R246 sets ERR and leaves the other bits. -/
theorem StatusFor.setErr {st : Word} {code : BitVec 4} (h : StatusFor i ns st) (hc : code.toNat ≤ 7) :
    StatusFor i ns (Status.setErr st code) where
  lastOp := by rw [Status.lastOp_setErr, h.lastOp]
  err_le := by rwa [Status.err_setErr]
  reserved := Status.reservedClear_setErr code h.reserved
  wsrc := by rw [Status.wsrc_setErr, h.wsrc]
  wcsum := by rw [Status.wcsum_setErr, h.wcsum]

/-- However a command ends, it appends legal records, and STATUS tells of them. -/
theorem exec_reports (h : exec i s = .next t) :
    ∃ ns, t.notes = s.notes ++ ns ∧ (∀ n ∈ ns, legalNote n) ∧ StatusFor i ns t.status := by
  cases exec_ran h with
  | tooLong _ ht =>
    subst ht
    exact ⟨[], (List.append_nil _).symm, by simp, (statusFor_afterNotes i []).setErr (by decide)⟩
  | failed _ ws c a0 a1 hw hlo hhi ht =>
    subst ht
    refine ⟨_, rfl, fun n hn => ?_, (statusFor_afterNotes i _).setErr (by omega)⟩
    rcases List.mem_append.1 hn with hn | hn
    · exact (hw n hn).legalNote
    · rw [List.mem_singleton.1 hn]
      exact .inr ⟨rfl, hlo, hhi⟩
  | ok _ ns hw _ _ _ _ _ _ _ _ ht =>
    subst ht
    exact ⟨ns, rfl, fun n hn => (hw n hn).legalNote, statusFor_afterNotes i ns⟩

/-- The bits outside STATUS's mask, by the statement's own number. -/
theorem and_reserved_eq_zero {st : Word} (h : Status.reservedClear st) : st &&& 0xFFFFF0C0 = 0 := by
  rw [← h, BitVec.and_assoc]
  exact BitVec.and_zero

theorem opcode_toNat (i : Instr) : i.opcode.toNat = op i := by
  cases i <;> rfl

theorem exists_writeCmd (v : Word) (s : State) : ∃ t, writeCmd v s = .next t := by
  rcases writeCmd_next v s with ⟨_, t, -, -, hw⟩ | ⟨_, -, hw⟩
  · exact ⟨t, hw⟩
  · exact ⟨_, hw⟩

/-- A CMD write, of whatever word, appends legal records. -/
theorem writeCmd_appends (h : writeCmd v s = .next t) :
    ∃ ns, t.notes = s.notes ++ ns ∧ ∀ n ∈ ns, legalNote n := by
  rcases writeCmd_next v s with ⟨i, u, -, hu, hw⟩ | ⟨e, -, hw⟩ <;> rw [hw] at h <;> cases h
  · obtain ⟨ns, hns, hlegal, -⟩ := exec_reports hu
    exact ⟨ns, hns, hlegal⟩
  · exact ⟨[], (List.append_nil _).symm, by simp⟩

end Sys2Proof.Machine

/-! ## What ERR tells of a command's end (R244, R246) -/

namespace Sys2Proof.Machine

open Sys2Proof.Claims

variable {i : Instr} {s t : State} {v : Word}

/-- A nonzero ERR is a failure commit. -/
theorem exec_failed_of_err (h : exec i s = .next t) (herr : Status.err t.status ≠ 0) :
    ∃ st a0 a1 ns d, t = failed st a0 a1 ns d s := by
  cases exec_ran h with
  | tooLong _ ht => exact ⟨_, _, _, [], s.draws, by rw [ht, failed, List.append_nil]⟩
  | failed _ _ _ _ _ _ _ _ ht => exact ⟨_, _, _, _, _, ht⟩
  | ok _ ns _ _ _ _ _ _ _ _ _ ht =>
    refine absurd ?_ herr
    rw [ht, Status.err_afterNotes, Status.err_start]

/-- Only the shell's own errors have a code above 5, and they emit nothing. -/
theorem exec_notes_of_shell_error (h : exec i s = .next t) (herr : 5 < (Status.err t.status).toNat) :
    t.notes = s.notes := by
  cases exec_ran h with
  | tooLong _ ht => rw [ht]
  | failed _ _ _ _ _ _ _ hhi ht =>
    rw [ht, Status.err_setErr] at herr
    omega
  | ok _ _ _ _ _ _ _ _ _ _ _ ht =>
    rw [ht, Status.err_afterNotes, Status.err_start] at herr
    exact absurd herr (by decide)

theorem writeCmd_notes_of_shell_error (h : writeCmd v s = .next t)
    (herr : 5 < (Status.err t.status).toNat) : t.notes = s.notes := by
  rcases writeCmd_next v s with ⟨i, u, -, hu, hw⟩ | ⟨e, -, hw⟩ <;> rw [hw] at h <;> cases h
  · exact exec_notes_of_shell_error hu herr
  · rfl

end Sys2Proof.Machine

/-! ## The first failing check (R248) -/

namespace Sys2Proof.Machine

open Sys2Proof.Claims

variable {s t : State} {rest : List Event} {v : Word}

/-- The checks of BUILD after the length check, in R175's order. -/
def firstBuildError (s : State) : Nat :=
  if dstOf s = 0 then 1 else if s.inLen.toNat = 0 then 2
  else if 65527 < s.inLen.toNat then 5 else 0

/-- The checks of PARSE after the length check, in R205's order. -/
def firstParseError (s : State) : Nat :=
  if s.inLen.toNat < 8 then 4
  else if beAt (inputOf s) 4 ≠ s.inLen.toNat then 3
  else if beAt (inputOf s) 2 = 0 then 1 else 0

/-- The checks of a legal command, the length check first. -/
def firstError (i : Instr) (s : State) : Nat :=
  if s.cfg.inCap < s.inLen.toNat then 6
  else match i with
    | .csum => 0
    | .build => firstBuildError s
    | .parse => firstParseError s

/-- A failure commit's ERR is its STATUS's. -/
theorem err_failed {st a0 a1 : Word} {ns : List Notification} {d n : Nat} (h : (Status.err st).toNat = n) :
    (Status.err (failed st a0 a1 ns d s).status).toNat = n := h

theorem exec_build_err (hf : lengthFits s) :
    ∃ t, exec .build s = .next t ∧ (Status.err t.status).toNat = firstBuildError s := by
  obtain ⟨-, heffect⟩ := Proofs.buildEffect
  obtain ⟨-, hport, hempty, hlong, hpass⟩ := heffect s
  unfold firstBuildError
  split
  next hd => exact ⟨_, hport hf hd, err_failed rfl⟩
  next hd =>
    split
    next h0 => exact ⟨_, hempty hf hd h0, err_failed rfl⟩
    next h0 =>
      split
      next hmax => exact ⟨_, hlong hf hd hmax, err_failed rfl⟩
      next hmax =>
        obtain ⟨t, ht, heq, -⟩ := hpass hf hd (by omega) (by omega)
        refine ⟨t, ht, ?_⟩
        rw [heq]
        dsimp only
        split <;> rfl

/-- A decode's warning bits leave ERR as it was. -/
theorem err_warnBits (csum src : Nat) :
    (Status.err (BitVec.ofNat 32 (0x300 + warnBits csum src))).toNat = 0 ∧
      (Status.err (BitVec.ofNat 32 (0x301 + warnBits csum src))).toNat = 1 := by
  rw [← parse_status_noPort, ← parse_status, Status.err_setErr, Status.err_afterNotes, Status.err_start]
  exact ⟨rfl, rfl⟩

theorem exec_parse_err (hf : lengthFits s) :
    ∃ t, exec .parse s = .next t ∧ (Status.err t.status).toNat = firstParseError s := by
  obtain ⟨-, heffect⟩ := Proofs.parseEffect
  obtain ⟨-, hshort, hmismatch, hport, hpass⟩ := heffect s
  unfold firstParseError
  split
  next h8 => exact ⟨_, hshort hf h8, err_failed rfl⟩
  next h8 =>
    split
    next hne => exact ⟨_, hmismatch hf (by omega) hne, err_failed rfl⟩
    next hlen =>
      split
      next hd => exact ⟨_, hport hf (by omega) (by omega) hd, err_failed (err_warnBits _ _).2⟩
      next hd =>
        obtain ⟨t, ht, heq, -⟩ := hpass hf (by omega) (by omega) hd
        refine ⟨t, ht, ?_⟩
        rw [heq]
        exact (err_warnBits _ _).1

/-- Every command ends with the code of its first failing check. -/
theorem exec_err (i : Instr) (s : State) :
    ∃ t, exec i s = .next t ∧ (Status.err t.status).toNat = firstError i s := by
  unfold firstError
  split
  next hlong =>
    refine ⟨_, exec_tooLong i (Nat.not_le.2 hlong), ?_⟩
    rw [Status.err_setErr]
    rfl
  next hfits =>
    have hf : lengthFits s := Nat.not_lt.1 hfits
    cases i with
    | csum => exact ⟨_, exec_csum hf, congrArg BitVec.toNat (Status.err_start _)⟩
    | build => exact exec_build_err hf
    | parse => exact exec_parse_err hf

theorem err_illegalCommand (v : Word) (s : State) :
    (Status.err (illegalCommand v s).status).toNat = 7 := by
  rw [illegalCommand_eq, Status.err_setErr]
  rfl

/-- The step of a CMD write ends with the ERR of the write. -/
theorem step_writeCmd_err (hp : s.pending = .access (.w32 s.cfg.base v) :: rest)
    (hw : writeCmd v { s with pending := rest } = .next t) :
    ∃ u, step s = .next u ∧ Status.err u.status = Status.err t.status :=
  ⟨t.respond .written, by rw [step_writeCmd hp, hw]; rfl, rfl⟩

/-- A CMD write of a command's word ends with the code of the command's first failing check. -/
theorem step_encode_err {i : Instr} (hp : s.pending = .access (.w32 s.cfg.base (encode i)) :: rest) :
    ∃ u, step s = .next u ∧ (Status.err u.status).toNat = firstError i s := by
  obtain ⟨t, ht, herr⟩ := exec_err i { s with pending := rest }
  obtain ⟨u, hu, heq⟩ := step_writeCmd_err hp ((writeCmd_of_decode_ok (decode_encode i)).trans ht)
  exact ⟨u, hu, heq ▸ herr⟩

end Sys2Proof.Machine

/-! ## What the stream takes in a step (R242, R243) -/

namespace Sys2Proof.Machine

variable {o : Nat} {v : Word} {s t : State} {e : Event} {rest : List Event}

theorem write8_notes (o : Nat) (b : Byte) (s : State) : (write8 o b s).notes = s.notes := by
  unfold write8
  split <;> rfl

/-- Away from CMD a 32-bit write emits nothing. -/
theorem write32_notes (h : write32 o v s = .next t) (ho : o ≠ 0) : t.notes = s.notes := by
  unfold write32 at h
  split at h
  · cases h; rfl
  · split at h
    next hcmd => exact absurd (offset_of_target hcmd) ho
    all_goals cases h; rfl

/-- An access that is no 32-bit write to CMD emits nothing. -/
theorem runAccess_notes {a : Access} (h : runAccess a s = .next t) (ha : ∀ v, a ≠ .w32 s.cfg.base v) :
    t.notes = s.notes := by
  by_cases hblock : s.cfg.Addresses a.addr
  · rw [runAccess, blockOffset_some hblock] at h
    cases a with
    | r32 x => cases h; exact congrArg (·.notes) (read32_frame _ s)
    | w32 x v =>
      have hbase : x ≠ s.cfg.base := fun hx => ha v (hx ▸ rfl)
      have hle : s.cfg.base ≤ x := hblock.1
      exact write32_notes h (Nat.sub_ne_zero_of_lt (lt_of_le_of_ne hle hbase.symm))
    | r8 x => cases h; exact congrArg (·.notes) (read8_frame _ s)
    | w8 x b => cases h; exact write8_notes _ b s
    | other bits w x => cases h; rfl
  · rw [runAccess, blockOffset_none hblock] at h
    cases h

/-- A step whose event is neither reset nor a CMD write emits nothing. -/
theorem step_notes (hp : s.pending = e :: rest) (hreset : e ≠ .reset)
    (hcmd : ∀ v, e ≠ .access (.w32 s.cfg.base v)) (h : step s = .next t) : t.notes = s.notes := by
  rw [step_cons hp] at h
  cases e with
  | reset => exact absurd rfl hreset
  | access a =>
    exact runAccess_notes (s := { s with pending := rest }) h fun v ha => hcmd v (congrArg Event.access ha)
  | copyRead host a =>
    rcases copyRead_cases host a { s with pending := rest } with ⟨-, hr⟩ | ⟨-, u, hu, -, hr⟩
    · cases hr.symm.trans h
    · cases hr.symm.trans h
      have hnotes : u.notes = s.notes :=
        runAccess_notes (s := { s with pending := rest }) hu (by simp)
      rw [keepAnswer_frame, hnotes]
  | writeBack host a =>
    exact runAccess_notes
      (s := State.setDraws (Memory.readOrDraw s.held host s.draws).2 { s with pending := rest }) h (by simp)

end Sys2Proof.Machine

/-! ## Where a step stops (R249, R289; log 6) -/

namespace Sys2Proof.Machine

open Sys2Proof.Claims

/-- An event is refused for its address, or completes. -/
theorem runEvent_cases (e : Event) (s : State) :
    (∃ a, addressOf e = some a ∧ ¬ s.cfg.Addresses a ∧ runEvent e s = .refused .notTheBlock) ∨
    ((∀ a, addressOf e = some a → s.cfg.Addresses a) ∧ ∃ t, runEvent e s = .next t) := by
  cases e with
  | reset => exact .inr ⟨nofun, _, rfl⟩
  | access a =>
    rcases runAccess_cases a s with ⟨hn, hr⟩ | ⟨ha, t, hr, -⟩
    · exact .inl ⟨_, rfl, hn, hr⟩
    · exact .inr ⟨fun _ h => Option.some.inj h ▸ ha, t, hr⟩
  | copyRead host a =>
    rcases copyRead_cases host a s with ⟨hn, hr⟩ | ⟨ha, u, -, -, hr⟩
    · exact .inl ⟨_, rfl, hn, hr⟩
    · exact .inr ⟨fun _ h => Option.some.inj h ▸ ha, _, hr⟩
  | writeBack host a =>
    rcases writeBack_cases host a s with ⟨hn, hr⟩ | ⟨ha, t, hr, -⟩
    · exact .inl ⟨_, rfl, hn, hr⟩
    · exact .inr ⟨fun _ h => Option.some.inj h ▸ ha, t, hr⟩

/-- The next event leads outside the block. -/
def leadsOutside (s : State) : Prop :=
  ∃ e rest a, s.pending = e :: rest ∧ addressOf e = some a ∧ ¬ s.cfg.Addresses a

/-- A step is refused for the address of its event, or completes. -/
theorem step_stops_cases (s : State) :
    (leadsOutside s ∧ step s = .refused .notTheBlock) ∨ (¬ leadsOutside s ∧ ∃ t, step s = .next t) := by
  unfold leadsOutside
  cases hp : s.pending with
  | nil => exact .inr ⟨nofun, s, step_nil hp⟩
  | cons e rest =>
    rw [step_cons hp]
    rcases runEvent_cases e { s with pending := rest } with ⟨a, ha, hn, hr⟩ | ⟨hin, t, ht⟩
    · exact .inl ⟨⟨e, rest, a, rfl, ha, hn⟩, hr⟩
    · refine .inr ⟨?_, t, ht⟩
      rintro ⟨_, _, a, heq, ha, hn⟩
      cases heq
      exact hn (hin a ha)

end Sys2Proof.Machine

/-! ## The obligations -/

namespace Sys2Proof.Proofs

open Sys2Proof.Machine Sys2Proof.Claims

/-- Settles O15: the shape of what each core operation emits, and the shell's errors by their codes. -/
theorem errorNotifiedJustBeforeReturn : Obligations.ErrorNotifiedJustBeforeReturn := by
  refine ⟨fun src dst data _ _ _ => (buildDatagram_shape src dst data).error_last,
    fun b _ _ _ => (parseDatagram_shape b).error_last,
    fun src dst data _ => (buildDatagram_shape src dst data).warns_of_ok,
    fun b _ => (parseDatagram_shape b).warns_of_ok, fun v s t h herr => ?_⟩
  refine writeCmd_notes_of_shell_error h ?_
  rcases herr with herr | herr <;> rw [herr] <;> decide

/-- Settles O27: an illegal word fails first; a command's word ends with its own first failing check. -/
theorem firstFailingCheckIsReported : Obligations.FirstFailingCheckIsReported := by
  intro s rest v hp
  by_cases hv : legalWord v
  · rcases hv with rfl | rfl | rfl
    · exact step_encode_err (i := .csum) hp
    · exact step_encode_err (i := .build) hp
    · exact step_encode_err (i := .parse) hp
  · obtain ⟨e, he⟩ := decode_error_of_not_legal hv
    obtain ⟨u, hu, herr⟩ := step_writeCmd_err hp (writeCmd_of_decode_error he)
    have hnot : v ≠ 1 ∧ v ≠ 2 ∧ v ≠ 3 := by simpa [legalWord] using hv
    exact ⟨u, hu, by rw [if_pos hnot, herr, err_illegalCommand]⟩

/-- Settles O29: a nonzero ERR is R246's commit. -/
theorem failureReturnsNoData : Obligations.FailureReturnsNoData := by
  intro i s t h herr
  obtain ⟨st, a0, a1, ns, d, rfl⟩ := exec_failed_of_err h herr
  exact ⟨rfl, rfl, rfl, rfl, rfl, rfl, rfl, rfl, rfl, rfl⟩

/-- Settles O30: STATUS as the command's own records leave it. -/
theorem statusAfterCommand : Obligations.StatusAfterCommand := by
  intro i s t h
  obtain ⟨ns, hns, hlegal, hst⟩ := exec_reports h
  have hsrc : legalNote (warnNote .srcPortZero) := isWarning.legalNote (.inl rfl)
  have hcsum : legalNote (warnNote .checksumZero) := isWarning.legalNote (.inr rfl)
  refine ⟨by rw [hst.lastOp, opcode_toNat], hst.err_le, and_reserved_eq_zero hst.reserved, ns, hns, ?_, ?_⟩
  · rw [hst.wsrc]
    exact any_iff_mem hlegal hsrc fun _ => isSrcWarning_iff
  · rw [hst.wcsum]
    exact any_iff_mem hlegal hcsum fun _ => isCsumWarning_iff

/-- Settles O43: a CMD write appends legal records, and every other event but reset appends none. -/
theorem notificationsOnlyAppend : Obligations.NotificationsOnlyAppend := by
  intro s t e rest hp hreset hstep
  by_cases hcmd : ∃ v, e = .access (.w32 s.cfg.base v)
  · obtain ⟨v, rfl⟩ := hcmd
    rw [step_writeCmd hp] at hstep
    obtain ⟨u, hu⟩ := exists_writeCmd v { s with pending := rest }
    rw [hu] at hstep
    cases hstep
    obtain ⟨ns, hns, hlegal⟩ := writeCmd_appends hu
    exact ⟨ns, hns, hlegal, fun h => absurd rfl (h v)⟩
  · have hnotes := step_notes hp hreset (not_exists.1 hcmd) hstep
    exact ⟨[], by rw [hnotes, List.append_nil], by simp, fun _ => rfl⟩

/-- Settles O44: a fault has no reason to be for, and the one refusal is for the event's address. -/
theorem stopsOnlyOutsideTheBlock : Obligations.StopsOnlyOutsideTheBlock := by
  refine fun s => ⟨nofun, fun r => ?_⟩
  rcases step_stops_cases s with ⟨⟨e, rest, a, hp, ha, hn⟩, hstep⟩ | ⟨hin, t, hstep⟩ <;> rw [hstep]
  · refine ⟨fun h => ⟨e, rest, a, hp, ha, hn, ?_⟩, ?_⟩
    · cases h
      rfl
    · rintro ⟨_, _, _, -, -, -, rfl⟩
      rfl
  · refine ⟨nofun, ?_⟩
    rintro ⟨e, rest, a, hp, ha, hn, -⟩
    exact absurd ⟨e, rest, a, hp, ha, hn⟩ hin

end Sys2Proof.Proofs
end

section
/-! SUPPORT. The rules of the reset and hazards family (70_reset_and_hazards.md): what reset leaves, the one answer of
each event the block answers and the runs over such events, and what a PARSE without an error hands to the host's own
verification; then the theorems that settle O41, O45, O47 and O52. -/

/-! ## Reset (R280) -/

namespace Sys2Proof.Machine

theorem step_reset {s : State} {rest : List Event} (hp : s.pending = .reset :: rest) :
    step s = .next (resetBlock { s with pending := rest }) := step_cons hp

/-- Every register is 0 and no buffer lists a byte, so only the parameters' values have to be legal. -/
theorem reset_inv : State.reset.Inv where
  cfg_valid := by decide
  status_reserved := rfl
  err_legal := Nat.zero_le 7
  srcPort_low := rfl
  dstPort_low := rfl
  resSrc_low := rfl
  resDst_low := rfl
  resLen_low := rfl
  resCsum_low := rfl
  args_zero_on_success := fun _ => ⟨rfl, rfl⟩
  results_zero_on_error := fun herr => absurd rfl herr
  in_wf := List.Pairwise.nil
  in_within := nofun
  out_wf := List.Pairwise.nil
  out_within := nofun
  outLen_le := Nat.zero_le _
  held_wf := List.Pairwise.nil
  out_defined := nofun

end Sys2Proof.Machine

/-! ## Runs over events that the block answers (R289) -/

namespace Sys2Proof.Machine

open Sys2Proof.Claims

variable {s t : State} {e : Event} {rest : List Event}

/-- The answerable events are those with no address outside the block. -/
theorem answerable_iff (c : Config) (e : Event) :
    e.answerable c ↔ ∀ a, addressOf e = some a → c.Addresses a := by
  cases e <;> simp [Event.answerable, addressOf]

theorem Answered.responses_length (h : Answered s t) : t.responses.length = s.responses.length + 1 := by
  obtain ⟨-, -, -, r, hr⟩ := h.keeps
  rw [hr, List.length_append, List.length_singleton]

/-- What the step of an event leaves to come, and its one answer if the event is an access. -/
theorem step_answers (hp : s.pending = e :: rest) (h : step s = .next t) :
    t.pending = rest ∧ t.cfg = s.cfg ∧
      t.responses.length = s.responses.length + [e].countP isAccess := by
  rcases step_cases h with ⟨hp', -⟩ | ⟨_, hp', rfl⟩ | ⟨_, _, hp', ha⟩ |
    ⟨_, _, _, _, hp', -, ha, rfl⟩ | ⟨_, _, _, _, hp', -, ha⟩ <;> cases hp.symm.trans hp'
  case inr.inl => exact ⟨rfl, rfl, rfl⟩
  all_goals obtain ⟨hcfg, hpend, -, -⟩ := ha.keeps
  · exact ⟨hpend, hcfg, ha.responses_length⟩
  · rw [keepAnswer_frame]
    exact ⟨hpend, hcfg, ha.responses_length⟩
  · exact ⟨hpend, hcfg, ha.responses_length⟩

/-- An event that the block answers stops no step. -/
theorem exists_step_of_answerable (hp : s.pending = e :: rest) (he : e.answerable s.cfg) :
    ∃ t, step s = .next t := by
  rw [step_cons hp]
  rcases runEvent_cases e { s with pending := rest } with ⟨a, ha, hn, -⟩ | ⟨-, ht⟩
  · exact absurd ((answerable_iff s.cfg e).1 he a ha) hn
  · exact ht

/-- A run over answerable events takes one step and gives one answer for each access of them. -/
theorem exists_run_answering {es : List Event} (hp : s.pending = es)
    (hes : ∀ e ∈ es, e.answerable s.cfg) :
    ∃ t, runsTo es.length s t ∧ t.pending = [] ∧ t.cfg = s.cfg ∧
      t.responses.length = s.responses.length + es.countP isAccess := by
  induction es generalizing s with
  | nil => exact ⟨s, rfl, hp, rfl, rfl⟩
  | cons e es ih =>
    obtain ⟨he, hes⟩ := List.forall_mem_cons.1 hes
    obtain ⟨u, hu⟩ := exists_step_of_answerable hp he
    obtain ⟨hup, hucfg, hulen⟩ := step_answers hp hu
    obtain ⟨t, hrun, htp, htcfg, htlen⟩ := ih hup (hucfg ▸ hes)
    refine ⟨t, ⟨u, hu, hrun⟩, htp, htcfg.trans hucfg, ?_⟩
    rw [htlen, hulen, Nat.add_assoc, ← List.countP_append, List.singleton_append]

end Sys2Proof.Machine

/-! ## The payload of a PARSE without an error (R205, R285) -/

namespace Sys2Proof.Machine

open Sys2Proof.Claims

variable {s t u : State}

/-- PARSE's first failing check is none exactly when the length fits and R203's fatal checks pass. -/
theorem firstError_parse_eq_zero_iff (s : State) :
    firstError .parse s = 0 ↔ lengthFits s ∧ 8 ≤ s.inLen.toNat ∧
      beAt (inputOf s) 4 = s.inLen.toNat ∧ beAt (inputOf s) 2 ≠ 0 := by
  unfold firstError firstParseError
  split_ifs with hlong h8 hfield hport
  · exact ⟨nofun, fun ⟨h, _⟩ => absurd h (Nat.not_le.2 hlong)⟩
  · exact ⟨nofun, fun ⟨_, h, _⟩ => absurd h (Nat.not_le.2 h8)⟩
  · exact ⟨nofun, fun ⟨_, _, h, _⟩ => absurd h hfield⟩
  · exact ⟨nofun, fun ⟨_, _, _, h⟩ => absurd hport h⟩
  · exact ⟨fun _ => ⟨Nat.not_lt.1 hlong, Nat.not_lt.1 h8, not_not.1 hfield, hport⟩, fun _ => rfl⟩

/-- What a PARSE without an error leaves of its input: the payload in OUT, its size, and the checksum field. -/
theorem parse_payload (h : exec .parse s = .next t) (herr : Status.err t.status = 0) :
    t.outLen.toNat = ((inputOf s).drop 8).length ∧
      t.outBuf = Memory.writeFrom 0 ((inputOf s).drop 8) s.outBuf ∧
      t.resCsum = (BitVec.ofNat 16 (beAt (inputOf s) 6)).setWidth 32 := by
  have hnone : firstError .parse s = 0 := by
    obtain ⟨t', ht', hfirst⟩ := exec_err .parse s
    cases h.symm.trans ht'
    rw [← hfirst, herr]
    rfl
  obtain ⟨hfits, h8, hfield, hport⟩ := (firstError_parse_eq_zero_iff s).1 hnone
  cases h.symm.trans (exec_parse_pass hfits h8 hfield hport)
  refine ⟨?_, rfl, (ofNat_beAt_setWidth _ 6).symm⟩
  have := s.inLen.isLt
  rw [BitVec.toNat_ofNat, List.length_drop, inputOf_length]
  omega

/-- A state whose input is the OUT of a PARSE without an error has the payload as its input. -/
theorem inputOf_eq_payload (h : exec .parse s = .next t) (herr : Status.err t.status = 0)
    (hlen : u.inLen = t.outLen) (hin : ∀ k, k < t.outLen.toNat → u.inBuf.read k = t.outBuf.read k) :
    inputOf u = (inputOf s).drop 8 := by
  obtain ⟨hsize, hout, -⟩ := parse_payload h herr
  refine inputOf_eq_of_reads ((congrArg BitVec.toNat hlen).trans hsize) fun k hk => ?_
  rw [hin k (hsize.symm ▸ hk), hout, Memory.read_writeFrom_zero _ hk]

/-- Two 16-bit values stored in registers are equal exactly when the values are. -/
theorem setWidth_eq_iff (v w : Half) : v.setWidth 32 = w.setWidth 32 ↔ v = w := by
  refine ⟨fun h => ?_, congrArg _⟩
  have hlow := congrArg (BitVec.setWidth 16) h
  rwa [BitVec.setWidth_setWidth_of_le v (by decide), BitVec.setWidth_setWidth_of_le w (by decide),
    BitVec.setWidth_eq, BitVec.setWidth_eq] at hlow

end Sys2Proof.Machine

/-! ## The obligations -/

namespace Sys2Proof.Proofs

open Sys2Proof.Machine Sys2Proof.Claims

/-- Settles O47: by induction on the events to come, each of which completes and adds its one answer. -/
theorem everyAccessCompletes : Obligations.EveryAccessCompletes := by
  intro s h
  rw [← List.countP_eq_length_filter]
  exact exists_run_answering rfl h

/-- Settles O52: CSUM takes the very payload the PARSE stored, and 16-bit values keep their equality in registers. -/
theorem hostCanVerifyChecksum : Obligations.HostCanVerifyChecksum := by
  intro s t u h herr hlen hcap hin
  have hfits : lengthFits u := (congrArg BitVec.toNat hlen).trans_le hcap
  refine ⟨_, exec_csum hfits, ?_⟩
  obtain ⟨-, -, hcsum⟩ := parse_payload h herr
  rw [inputOf_eq_payload h herr hlen hin, hcsum, setWidth_eq_iff, ← BitVec.toNat_inj, ofNat_beAt_toNat,
    eq_comm]

/-- Settles O41: reset's own state, and the state that a reset event puts the block in. -/
theorem resetLeavesZeros : Obligations.ResetLeavesZeros :=
  ⟨⟨rfl, rfl, rfl, rfl, rfl, fun _ => rfl⟩,
    fun _ _ hp => ⟨_, step_reset hp, rfl, rfl, rfl, rfl, rfl, fun _ => rfl⟩⟩

/-- Settles O45: the invariant's clauses on the state of R280's table. -/
theorem resetMeetsInvariant : Obligations.ResetMeetsInvariant := reset_inv

end Sys2Proof.Proofs
end
